-- ==== Sys2Proof/Word.lean ====
section
/-! DEFINITION. The word types of SHA512HX (spec 00_scope.md R2, R3; 10_state.md). -/

namespace Sys2Proof

/-- A u8: one byte of the bus, of `BUF`, `DGST` or `HEX` (00_scope.md §4, 20_memory.md R28). -/
abbrev Byte := BitVec 8

/-- A u64, the word of the compression engine; `+` on it wraps modulo 2^64 (00_scope.md R2, R59). -/
abbrev Word := BitVec 64

/-- A u128, the message bit-length counter (10_state.md R11). -/
abbrev LenCount := BitVec 128

/-- The 17-bit transaction word `RW ‖ ADDR ‖ DATA` (30_encoding.md R42). -/
abbrev TxnWord := BitVec 17

/-- A block: 128 bytes (00_scope.md R3). -/
abbrev Block := Vector Byte 128

/-- Eight 64-bit words: the hash state, or the working variables a..h (00_scope.md R3, R12). -/
abbrev HashWords := Vector Word 8

end Sys2Proof
end

