-- ==== Sys2Proof/Config.lean ====
section
/-! DEFINITION. What the spec leaves to the platform or to the implementation: the interleaving of
the host with the engine (a free value) and the platform parameters `N_INST` and `BASE(i)`. -/

namespace Sys2Proof

/-- FREE VALUE: how many host turns may pass before the engine takes its n-th micro-step. The spec
bounds no latency (00_scope.md R7, 70_reset_and_hazards.md R117), admits every interleaving of STATUS
reads with micro-steps (93_implementation_defined.md U5), and assumes only that the next micro-step
comes eventually (R116): every value of this function is such an interleaving, and each number is
finite. No body: nothing can be proved of its values (DESIGN CHOICE, assumption log 4). That it is one
function of the number n of draws alone, the same for every instance of a platform, for every run and for
every message, is the model's choice too: R117 and R106 leave each engine its own progress (DESIGN CHOICE,
unsafe, assumption log 19). -/
opaque Config.hostTurnsBefore : Nat → Nat

/-- The platform parameters of 00_scope.md R6: `BASE(i)` is the i-th entry of `bases`, and `N_INST` is
its length. They are an argument of the platform layer (92_eei_decisions.md D14). -/
structure Platform where
  bases : List Nat
  deriving DecidableEq, Repr

/-- `N_INST` (00_scope.md R6). -/
def Platform.nInst (p : Platform) : Nat := p.bases.length

end Sys2Proof
end

