-- ==== Sys2Proof/Syntax.lean ====
section
/-! DEFINITION. The operations of SHA512HX: one constructor per operation (mnemonic) of
spec/opcode_table.json. The 29 rows of the table are these 11 operations, some split over several rows
only because one mask covers one aligned range of values (30_encoding.md R47; DEDUCED, assumption log 1). -/

namespace Sys2Proof

/-- A host transaction, decoded. The fields are those whose value the operation's word carries. -/
inductive Instr where
  /-- `WR 0x00, 0x00` (43_host_interface.md R82). -/
  | nop
  /-- `WR 0x00, 0x01` (R83). -/
  | init
  /-- `WR 0x00, 0x02` (R84). -/
  | final
  /-- `WR 0x00, v` with the reserved command value v, 0x03..0xFF (R85). -/
  | cmdRsvd (v : Byte)
  /-- `WR 0x02, d`: the message byte d (R86). -/
  | absorb (d : Byte)
  /-- `WR a, x` to a read-only offset: 0x01, 0x40..0xFF (R87). -/
  | wrRo (a x : Byte)
  /-- `WR a, x` to a reserved offset 0x03..0x3F (R88). -/
  | wrRsvd (a x : Byte)
  /-- `RD 0x01` (R89). -/
  | rdStatus
  /-- `RD 0x40 + i`: digest byte i (R90). -/
  | rdDgst (i : BitVec 6)
  /-- `RD 0x80 + j`: hex character j (R91). -/
  | rdHex (j : BitVec 7)
  /-- `RD a` with a = 0x00, 0x02 or 0x03..0x3F (R92). -/
  | rdZero (a : Byte)
  deriving DecidableEq, Repr

end Sys2Proof
end

