-- ==== Sys2Proof/WellFormed.lean ====
section
/-! DEFINITION. Which instruction terms some transaction word stands for, and which platforms are
sensible. -/

namespace Sys2Proof

/-- The operand ranges of 43_host_interface.md R85, R87, R88 and R92; the other operations admit every
value of their fields. -/
def Instr.wf : Instr → Bool
  | .nop => true
  | .init => true
  | .final => true
  | .cmdRsvd v => decide (3 ≤ v.toNat)
  | .absorb _ => true
  | .wrRo a _ => decide (a.toNat = 1 ∨ 0x40 ≤ a.toNat)
  | .wrRsvd a _ => decide (3 ≤ a.toNat ∧ a.toNat ≤ 0x3F)
  | .rdStatus => true
  | .rdDgst _ => true
  | .rdHex _ => true
  | .rdZero a => decide (a.toNat = 0 ∨ a.toNat = 2 ∨ (3 ≤ a.toNat ∧ a.toNat ≤ 0x3F))

/-- A platform has at least one SHA512HX (`N_INST ≥ 1`, 00_scope.md R6), and no two of its 256-byte
windows overlap (PRESUMED: the spec does not say so; assumption log 11). -/
def Platform.wf (p : Platform) : Bool :=
  decide (1 ≤ p.nInst) && decide (p.bases.Pairwise fun a b => a + 256 ≤ b ∨ b + 256 ≤ a)

end Sys2Proof
end

