-- ==== Sys2Proof/Decode.lean ====
section
/-! DEFINITION. The decoder, from the transaction word of 30_encoding.md R42 to the operation, total on
any bytes; the encoder; and the 29 match/mask rows of spec/opcode_table.json. -/

namespace Sys2Proof

/-- Why bytes are no transaction word. -/
inductive DecodeError where
  /-- Not three bytes: the word has 17 bits, laid out as DATA, ADDR, RW (DESIGN CHOICE, assumption log 2). -/
  | notThreeBytes
  /-- A bit above bit 16 is set: the word has no such bit (R42). -/
  | bitsAboveWord
  deriving DecidableEq, Repr

/-! ### The fields (R42) -/

/-- `RW`, bit 16: true for a write. -/
def TxnWord.rw (w : TxnWord) : Bool := w.getLsbD 16

/-- `ADDR`, bits 15:8. -/
def TxnWord.addr (w : TxnWord) : Byte := w.extractLsb' 8 8

/-- `DATA`, bits 7:0. -/
def TxnWord.data (w : TxnWord) : Byte := w.extractLsb' 0 8

/-- `word = RW ‖ ADDR[7:0] ‖ DATA[7:0]`. -/
def mkTxnWord (rw : Bool) (addr data : Byte) : TxnWord := BitVec.ofBool rw ++ (addr ++ data)

/-! ### Decoding (R44, R45, R47) -/

/-- A write to CMD selects a command by its data byte (R45). -/
def decodeCommand (data : Byte) : Instr :=
  if data = 0x00 then .nop
  else if data = 0x01 then .init
  else if data = 0x02 then .final
  else .cmdRsvd data

/-- The write column of the register map (R44). -/
def decodeWrite (addr data : Byte) : Instr :=
  if addr = 0x00 then decodeCommand data
  else if addr = 0x01 then .wrRo addr data
  else if addr = 0x02 then .absorb data
  else if addr.toNat < 0x40 then .wrRsvd addr data
  else .wrRo addr data

/-- The read column of the register map (R44); the digest index is `ADDR[5:0]` and the hex index
`ADDR[6:0]` (R43). The DATA field of a read request is ignored (R42). -/
def decodeRead (addr : Byte) : Instr :=
  if addr = 0x01 then .rdStatus
  else if addr.toNat < 0x40 then .rdZero addr
  else if addr.toNat < 0x80 then .rdDgst (addr.extractLsb' 0 6)
  else .rdHex (addr.extractLsb' 0 7)

/-- Every one of the 2^17 words is an operation (R47). -/
def decodeWord (w : TxnWord) : Instr :=
  if w.rw then decodeWrite w.addr w.data else decodeRead w.addr

/-- The word as bytes, least significant first: DATA, ADDR, RW (DESIGN CHOICE, assumption log 2). -/
def wordBytes (w : TxnWord) : List Byte :=
  [w.data, w.addr, if w.rw then 1 else 0]

/-- The decoder, total on any bytes. -/
def decode : List Byte → Except DecodeError Instr
  | [d, a, r] =>
    if r = 0 then .ok (decodeWord (mkTxnWord false a d))
    else if r = 1 then .ok (decodeWord (mkTxnWord true a d))
    else .error .bitsAboveWord
  | _ => .error .notThreeBytes

/-! ### Encoding, from the same tables -/

/-- The window offset the operation's transaction addresses (R44). -/
def Instr.offset : Instr → Byte
  | .nop => 0x00
  | .init => 0x00
  | .final => 0x00
  | .cmdRsvd _ => 0x00
  | .absorb _ => 0x02
  | .wrRo a _ => a
  | .wrRsvd a _ => a
  | .rdStatus => 0x01
  | .rdDgst i => (0b01#2 ++ i : BitVec 8)
  | .rdHex j => (0b1#1 ++ j : BitVec 8)
  | .rdZero a => a

/-- Whether the operation is a write (R42). -/
def Instr.isWrite : Instr → Bool
  | .nop => true
  | .init => true
  | .final => true
  | .cmdRsvd _ => true
  | .absorb _ => true
  | .wrRo _ _ => true
  | .wrRsvd _ _ => true
  | .rdStatus => false
  | .rdDgst _ => false
  | .rdHex _ => false
  | .rdZero _ => false

/-- The DATA field; for a read it is 0 in the request (R42). -/
def Instr.dataField : Instr → Byte
  | .nop => 0x00
  | .init => 0x01
  | .final => 0x02
  | .cmdRsvd v => v
  | .absorb d => d
  | .wrRo _ x => x
  | .wrRsvd _ x => x
  | .rdStatus => 0x00
  | .rdDgst _ => 0x00
  | .rdHex _ => 0x00
  | .rdZero _ => 0x00

/-- The transaction word of an operation. -/
def encodeWord (i : Instr) : TxnWord := mkTxnWord i.isWrite i.offset i.dataField

/-- The transaction word of an operation as bytes. -/
def encode (i : Instr) : List Byte := wordBytes (encodeWord i)

/-! ### The opcode table -/

/-- The operations the rows of the table name, each under its mnemonic. -/
inductive Op where
  | NOP | INIT | FINAL | CMD_RSVD | ABSORB | WR_RO | WR_RSVD | RD_STATUS | RD_DGST | RD_HEX | RD_ZERO
  deriving DecidableEq, Repr

/-- The mnemonic of an operation. -/
def Instr.op : Instr → Op
  | .nop => .NOP
  | .init => .INIT
  | .final => .FINAL
  | .cmdRsvd _ => .CMD_RSVD
  | .absorb _ => .ABSORB
  | .wrRo _ _ => .WR_RO
  | .wrRsvd _ _ => .WR_RSVD
  | .rdStatus => .RD_STATUS
  | .rdDgst _ => .RD_DGST
  | .rdHex _ => .RD_HEX
  | .rdZero _ => .RD_ZERO

/-- A row of spec/opcode_table.json: its mnemonic, match and mask. -/
structure Row where
  op : Op
  pattern : TxnWord
  mask : TxnWord
  deriving DecidableEq, Repr

/-- A word matches a row when `(word & mask) == match` (R47). -/
def Row.matchesWord (r : Row) (w : TxnWord) : Bool := (w &&& r.mask) == r.pattern

/-- The rows that write CMD. -/
def commandRows : List Row :=
  [ ⟨.NOP, 0x10000, 0x1FFFF⟩, ⟨.INIT, 0x10001, 0x1FFFF⟩, ⟨.FINAL, 0x10002, 0x1FFFF⟩,
    ⟨.CMD_RSVD, 0x10003, 0x1FFFF⟩, ⟨.CMD_RSVD, 0x10004, 0x1FFFC⟩, ⟨.CMD_RSVD, 0x10008, 0x1FFF8⟩,
    ⟨.CMD_RSVD, 0x10010, 0x1FFF0⟩, ⟨.CMD_RSVD, 0x10020, 0x1FFE0⟩, ⟨.CMD_RSVD, 0x10040, 0x1FFC0⟩,
    ⟨.CMD_RSVD, 0x10080, 0x1FF80⟩ ]

/-- The other write rows. -/
def writeRows : List Row :=
  [ ⟨.ABSORB, 0x10200, 0x1FF00⟩, ⟨.WR_RO, 0x10100, 0x1FF00⟩, ⟨.WR_RO, 0x14000, 0x1C000⟩,
    ⟨.WR_RO, 0x18000, 0x18000⟩, ⟨.WR_RSVD, 0x10300, 0x1FF00⟩, ⟨.WR_RSVD, 0x10400, 0x1FC00⟩,
    ⟨.WR_RSVD, 0x10800, 0x1F800⟩, ⟨.WR_RSVD, 0x11000, 0x1F000⟩, ⟨.WR_RSVD, 0x12000, 0x1E000⟩ ]

/-- The read rows. -/
def readRows : List Row :=
  [ ⟨.RD_STATUS, 0x00100, 0x1FF00⟩, ⟨.RD_DGST, 0x04000, 0x1C000⟩, ⟨.RD_HEX, 0x08000, 0x18000⟩,
    ⟨.RD_ZERO, 0x00000, 0x1FF00⟩, ⟨.RD_ZERO, 0x00200, 0x1FF00⟩, ⟨.RD_ZERO, 0x00300, 0x1FF00⟩,
    ⟨.RD_ZERO, 0x00400, 0x1FC00⟩, ⟨.RD_ZERO, 0x00800, 0x1F800⟩, ⟨.RD_ZERO, 0x01000, 0x1F000⟩,
    ⟨.RD_ZERO, 0x02000, 0x1E000⟩ ]

/-- The 29 rows of spec/opcode_table.json, in its order. -/
def opcodeTable : List Row := commandRows ++ (writeRows ++ readRows)

/-! ### The host's numbering of a word -/

/-- The bytes of a word of `nbits` bits given as a number, bit 0 the least significant of the first
byte; bits above the third byte make it no transaction word. -/
def tableBytes (nbits w : Nat) : List Byte :=
  let v := w % 2 ^ nbits
  if v < 2 ^ 24 then
    [BitVec.ofNat 8 v, BitVec.ofNat 8 (v / 2 ^ 8), BitVec.ofNat 8 (v / 2 ^ 16)]
  else []

/-- What the decoder reads from the transaction whose word is `w`. -/
def decodeTableWord (nbits w : Nat) : Option Instr :=
  match decode (tableBytes nbits w) with
  | .ok i => some i
  | .error _ => none

end Sys2Proof
end

