-- ==== Sys2Proof/Machine/State.lean ====
section
/-! DEFINITION. The state of one SHA512HX instance: every element of spec 10_state.md, and after them
the host's side of the bus (its pending transactions, the transaction that is holding, the bytes its
reads have returned), the reset input, and the model's own scheduling fields. Plain data. -/

namespace Sys2Proof.Machine

/-- `MSTEP`, the engine's next micro-step (10_state.md R15). -/
inductive MStep where
  | load | round | update | pad2 | finish
  deriving DecidableEq, Repr

/-- `JOB`, what the engine does after the `UPDATE` that ends the compression (10_state.md R16). -/
inductive Job where
  | block | finalFirst | finalLast
  deriving DecidableEq, Repr

/-- `PHASE`, the message-level state (10_state.md R18). -/
inductive Phase where
  | idle | absorb | done | error
  deriving DecidableEq, Repr

/-- What a bus master puts on the bus of the instance: a write or a read at an offset, with one byte
lane per byte of the access width (`lanes` is the written data; for a read it is ignored, 30_encoding.md
R42). Exactly the requests of one lane with an offset below 256 are transactions of SHA512HX (20_memory.md
R27 to R29); the others can be presented, and are refused by name. -/
structure Request where
  write : Bool
  offset : Nat
  lanes : List Byte
  deriving DecidableEq, Repr

/-- Why the machine stops with a fault. Both are raised in states that 10_state.md R26 calls
unreachable, where the spec names a storage element that does not exist (DEDUCED, assumption log 7). -/
inductive Fault where
  /-- Raised by ABSORB and FINAL when `BUFPTR = 128` while `BUSY = 0`: there is no `BUF[128]`
  (R26 item 1 says `BUFPTR ≤ 127`). Safe: the machine stops in a state no run reaches. -/
  | bufferPointer
  /-- Raised by the engine when `MSTEP = ROUND` and `T = 80`: `ROUND` is taken only while `T < 80`
  (R14), so the engine is stuck. Safe: the machine stops in a state no run reaches. -/
  | engineStuck
  deriving DecidableEq, Repr

/-- Why a step has no meaning. -/
inductive Refusal where
  /-- Raised by `exec` for an instruction that has no meaning yet. Safe: nothing is claimed of it. -/
  | notModelled (mnemonic : String)
  /-- Raised when the access presented is not one byte wide: it is not a transaction of SHA512HX, and
  a model refuses it (20_memory.md R29). Safe: nothing is claimed of it. -/
  | notOneByte
  /-- Raised when the access presented lies outside the window (R29). Safe. -/
  | outsideWindow
  /-- Raised when the bytes fetched are no transaction word; no one-byte access inside the window
  gives such bytes (30_encoding.md R47). Safe. -/
  | notATransaction (why : DecodeError)
  /-- Raised by the platform layer for an instance number at or above `N_INST` (00_scope.md R6). Safe. -/
  | noSuchInstance
  deriving DecidableEq, Repr

/-- The machine. -/
structure State where
  /-- `H[0..7]`, the hash state (R8). -/
  h : HashWords
  /-- `BUF[0..127]`, the block buffer (R9). -/
  buf : Block
  /-- `BUFPTR`, 0..128 (R10). -/
  bufptr : Fin 129
  /-- `LEN`, the message length in bits (R11). -/
  len : LenCount
  /-- `WK[0..7]`, the working variables a..h (R12). -/
  wk : HashWords
  /-- `W[0..15]`, the message-schedule window (R13). -/
  w : Vector Word 16
  /-- `T`, the round counter 0..80 (R14). -/
  t : Fin 81
  /-- `MSTEP` (R15). -/
  mstep : MStep
  /-- `JOB` (R16). -/
  job : Job
  /-- `BUSY` (R17). -/
  busy : Bool
  /-- `PHASE` (R18). -/
  phase : Phase
  /-- `LENOVF` (R19). -/
  lenovf : Bool
  /-- `SEQERR` (R19). -/
  seqerr : Bool
  /-- `CMDERR` (R19). -/
  cmderr : Bool
  /-- `DGST[0..63]` (R21). -/
  dgst : Vector Byte 64
  /-- `HEX[0..127]` (R22). -/
  hex : Vector Byte 128
  /-- The accesses the bus master or masters still have to make, in the order in which they reach the
  instance (20_memory.md R38, R39); the head is presented next. -/
  pending : List Request
  /-- True when the head of `pending` has been issued and is holding (70_reset_and_hazards.md R113). -/
  holding : Bool
  /-- The bytes the reads have returned, oldest first: with STATUS, DGST and HEX the observation of a
  run (43_host_interface.md R95). -/
  returned : List Byte
  /-- The level of the reset input at this step and at the following ones, true for asserted; past the
  end of the list it is not asserted (R109; DESIGN CHOICE, assumption log 5). -/
  resetIn : List Bool
  /-- The model's own: how many host turns may still pass before the engine's next micro-step
  (DESIGN CHOICE, assumption log 4). -/
  slack : Nat
  /-- The model's own: how many values of `Config.hostTurnsBefore` have been used. -/
  tick : Nat
  deriving DecidableEq, Repr

/-- The machine right after reset: every element at the value of 70_reset_and_hazards.md R109. The host
has presented nothing yet. -/
def State.reset : State where
  h := Vector.replicate 8 0
  buf := Vector.replicate 128 0x00
  bufptr := 0
  len := 0
  wk := Vector.replicate 8 0
  w := Vector.replicate 16 0
  t := 0
  mstep := .load
  job := .block
  busy := false
  phase := .idle
  lenovf := false
  seqerr := false
  cmderr := false
  dgst := Vector.replicate 64 0x00
  hex := Vector.replicate 128 0x00
  pending := []
  holding := false
  returned := []
  resetIn := []
  slack := 0
  tick := 0

/-- What one step or one meaning answers. -/
abbrev Result := Host.Outcome State Fault Refusal

end Sys2Proof.Machine
end

