-- ==== Sys2Proof/Machine/Ops.lean ====
section
/-! DEFINITION. The named operations the meanings share: the bus (completing, holding and answering a
transaction), the errors, starting a job, the reset, and the scheduling. -/

namespace Sys2Proof.Machine

/-! ### The bus -/

/-- The transaction at the head of `pending` has completed (20_memory.md R38). -/
def State.retire (s : State) : State :=
  { s with pending := s.pending.tail, holding := false }

/-- The transaction at the head of `pending` has been issued and holds: it does not complete and has no
effect (70_reset_and_hazards.md R113). -/
def State.hold (s : State) : State :=
  { s with holding := true }

/-- A read completes and returns the byte `b` to the host (20_memory.md R28). -/
def State.respond (s : State) (b : Byte) : State :=
  { s with pending := s.pending.tail, holding := false, returned := s.returned ++ [b] }

/-- The rule common to every transaction but a STATUS read: it holds while `BUSY = 1`, and is otherwise
performed against the state at that moment (43_host_interface.md, before §1; R113). -/
def unlessBusy (s : State) (perform : State → Result) : Result :=
  if s.busy then .next s.hold else perform s

/-! ### Errors: in SHA512HX taking an exception is a status change and nothing else -/

/-- The three error conditions (60_exceptions.md §1). -/
inductive ErrorCondition where
  | lengthOverflow | sequence | illegalCommand
  deriving DecidableEq, Repr

/-- Raising an error: no trap, no vector, no saved context; its whole effect is the status change of its
rule (60_exceptions.md R96, R97, R98, R101). -/
def State.raiseError (s : State) : ErrorCondition → State
  | .lengthOverflow => { s with phase := .error, lenovf := true }
  | .sequence => { s with seqerr := true }
  | .illegalCommand => { s with cmderr := true }

/-- The counterpart of a return from error: the flags are cleared, all three together, which only INIT
and reset do (R102). -/
def State.clearErrors (s : State) : State :=
  { s with lenovf := false, seqerr := false, cmderr := false }

/-! ### The engine's jobs and the schedule -/

/-- A fresh free number of host turns that may pass before the next micro-step (DESIGN CHOICE, assumption
log 4). It depends on the number of draws since the start alone, not on the instance, the run or the data
(DESIGN CHOICE, unsafe, assumption log 19). -/
def State.drawSlack (s : State) : State :=
  { s with slack := Config.hostTurnsBefore s.tick, tick := s.tick + 1 }

/-- `start job J`: `JOB <- J; MSTEP <- LOAD; BUSY <- 1` (00_scope.md §4). -/
def State.startJob (s : State) (j : Job) : State :=
  { s.drawSlack with job := j, mstep := .load, busy := true }

/-- A host turn taken while the engine is busy uses up one of the turns that may pass. -/
def State.useTurn (s : State) : State :=
  if s.busy then { s with slack := s.slack - 1 } else s

/-! ### The reset input -/

/-- The step goes by, and with it this step's level of the reset input. -/
def State.passReset (s : State) : State :=
  { s with resetIn := s.resetIn.tail }

/-- A step with the reset input asserted: every element of 10_state.md takes its reset value, a job in
progress is abandoned, and a transaction that was holding is cancelled and returns no byte
(70_reset_and_hazards.md R109). What the host has not issued yet and what it has already received are
the host's, and stay. -/
def State.applyReset (s : State) : State :=
  { State.reset with
    pending := if s.holding then s.pending.tail else s.pending
    returned := s.returned
    resetIn := s.resetIn.tail
    tick := s.tick }

/-! ### Messages -/

/-- What INIT writes (43_host_interface.md R83). -/
def State.openMessage (s : State) : State :=
  { s.clearErrors with
    h := iv
    buf := Vector.replicate 128 0x00
    bufptr := 0
    len := 0
    dgst := Vector.replicate 64 0x00
    hex := Vector.replicate 128 0x00
    phase := .absorb }

end Sys2Proof.Machine
end

