-- ==== Sys2Proof/Machine/Bus.lean ====
section
/-! DEFINITION. Fetching a presented access as a transaction, whose turn a step is, and placing a
transaction where the next step fetches it (spec 20_memory.md R27 to R29, R38; 70_reset_and_hazards.md
R109, R113, R116). -/

namespace Sys2Proof.Machine

/-- The bytes the decoder reads for a presented access. An access that is not one byte wide, or lies
outside the window, is not a transaction of SHA512HX and is refused (R29). -/
def fetchBytes (r : Request) : Except Refusal (List Byte) :=
  match r.lanes with
  | [d] =>
    if r.offset < 256 then .ok (wordBytes (mkTxnWord r.write (BitVec.ofNat 8 r.offset) d))
    else .error .outsideWindow
  | _ => .error .notOneByte

/-- The transaction a presented access is. -/
def fetch (r : Request) : Except Refusal Instr :=
  match fetchBytes r with
  | .error e => .error e
  | .ok bytes =>
    match decode bytes with
    | .ok i => .ok i
    | .error e => .error (.notATransaction e)

/-- Which agent acts in a step. -/
inductive Turn where
  /-- The reset input is asserted. -/
  | reset
  /-- The engine takes its micro-step. -/
  | engine
  /-- The host has this access performed. -/
  | host (r : Request)
  /-- No agent has anything to do. -/
  | idle
  deriving DecidableEq, Repr

/-- Whose turn it is. An asserted reset input stops both agents (R109). While `BUSY = 1` the engine is
enabled; it goes when the host is holding, when no more host turns may pass (R116), and when the host has
nothing to do. Otherwise the host goes (R113; DESIGN CHOICE, assumption log 4). -/
def whoseTurn (s : State) : Turn :=
  if s.resetIn.head? = some true then .reset
  else
    match s.pending with
    | [] => if s.busy then .engine else .idle
    | r :: _ => if s.busy && (s.holding || s.slack == 0) then .engine else .host r

/-- The access whose transaction word is `w`; a word with bits above bit 16 lies outside the window. -/
def Request.ofWord (w : Nat) : Request where
  write := w.testBit 16
  offset := w / 2 ^ 8 % 2 ^ 8 + 2 ^ 8 * (w / 2 ^ 17)
  lanes := [BitVec.ofNat 8 w]

/-- `s` with the access `r` presented next, the reset input not asserted and the host's turn next. -/
def State.present (s : State) (r : Request) : State :=
  { s with
    pending := r :: s.pending
    holding := false
    resetIn := []
    slack := if s.busy ∧ s.slack = 0 then 1 else s.slack }

end Sys2Proof.Machine
end

