-- ==== Sys2Proof/Machine/Flags.lean ====
section
/-! DEFINITION. STATUS, the one register that shows the flags (spec 10_state.md R17 to R20). -/

namespace Sys2Proof.Machine

/-- The two-bit code of a phase (R18). -/
def Phase.code : Phase → BitVec 2
  | .idle => 0
  | .absorb => 1
  | .done => 2
  | .error => 3

/-- `STATUS = zext_8(CMDERR ‖ SEQERR ‖ LENOVF ‖ PHASE[1:0] ‖ BUSY)` (R20). -/
def statusByte (s : State) : Byte :=
  (BitVec.ofBool s.cmderr ++ (BitVec.ofBool s.seqerr ++ (BitVec.ofBool s.lenovf ++
    (s.phase.code ++ BitVec.ofBool s.busy)))).setWidth 8

end Sys2Proof.Machine
end

