-- ==== Sys2Proof/Machine/Operands.lean ====
section
/-! DEFINITION. The operand forms: the window the ADDR field selects a byte of (spec 30_encoding.md R43,
R44), and the big-endian packing of bytes (20_memory.md R30 to R34). -/

namespace Sys2Proof.Machine

/-! ### The register window -/

/-- `DGST[i]` with i = `ADDR[5:0]` (R43, 10_state.md R21). -/
def readDgst (s : State) (i : BitVec 6) : Byte := s.dgst[i.toNat]'i.isLt

/-- `HEX[j]` with j = `ADDR[6:0]` (R43, 10_state.md R22). -/
def readHex (s : State) (j : BitVec 7) : Byte := s.hex[j.toNat]'j.isLt

/-- The read column of the register map: the byte a read of window offset `a` returns (R44). -/
def readWindow (s : State) (a : Byte) : Byte :=
  if a = 0x01 then statusByte s
  else if a.toNat < 0x40 then 0x00
  else if a.toNat < 0x80 then readDgst s (a.extractLsb' 0 6)
  else readHex s (a.extractLsb' 0 7)

/-! ### Byte order -/

/-- `BE64(b0, …, b7)`: b0 is bits 63:56 (00_scope.md §4). -/
def be64 (b0 b1 b2 b3 b4 b5 b6 b7 : Byte) : Word :=
  b0 ++ (b1 ++ (b2 ++ (b3 ++ (b4 ++ (b5 ++ (b6 ++ b7))))))

/-- Schedule word j of a block is `BE64(BUF[8j], …, BUF[8j+7])`, the earliest byte the most significant
(20_memory.md R31). -/
def blockWord (b : Block) (j : Fin 16) : Word :=
  have := j.isLt
  be64 b[8 * j.val] b[8 * j.val + 1] b[8 * j.val + 2] b[8 * j.val + 3]
    b[8 * j.val + 4] b[8 * j.val + 5] b[8 * j.val + 6] b[8 * j.val + 7]

/-- Byte k of `BE128(LEN)`: `LEN[127 − 8k : 120 − 8k]` (20_memory.md R32). -/
def lengthByte (len : LenCount) (k : Nat) : Byte := len.extractLsb' (120 - 8 * k) 8

/-- Byte j of a word, most significant first: `x[63 − 8j : 56 − 8j]` (20_memory.md R33). -/
def wordByte (x : Word) (j : Nat) : Byte := x.extractLsb' (56 - 8 * j) 8

end Sys2Proof.Machine
end

