-- ==== Sys2Proof/Machine/Padding.lean ====
section
/-! DEFINITION. The padding and length-encoding unit (spec 40_padding.md): absorbing a byte, building the
final block or blocks, and the micro-step PAD2. -/

namespace Sys2Proof.Machine

/-- `2^128 − 8`: the bit length of the longest message, 2^125 − 1 bytes (00_scope.md R5). -/
def maxLen : LenCount := BitVec.ofNat 128 (2 ^ 128 - 8)

/-- Store, count and trigger (R52). -/
def storeByte (s : State) (d : Byte) : Result :=
  if h : s.bufptr.val < 128 then
    let s' := { s with
      buf := s.buf.set s.bufptr.val d
      bufptr := ⟨s.bufptr.val + 1, by omega⟩
      len := s.len + 8 }
    .next (if s.bufptr.val + 1 = 128 then s'.startJob .block else s')
  else .fault .bufferPointer

/-- A byte offered to the unit: the phase check (R50), then the length check (R51), then the store
(R52). -/
def absorbByte (s : State) (d : Byte) : Result :=
  if s.phase ≠ .absorb then .next (s.raiseError .sequence)
  else if s.len = maxLen then .next (s.raiseError .lengthOverflow)
  else storeByte s d

/-- Terminator and zero fill: `BUF[p] <- 0x80`, `BUF[p+1..127] <- 0x00` (R53). -/
def padTerminator (b : Block) (p : Nat) : Block :=
  Vector.ofFn fun i : Fin 128 => if i.val < p then b[i.val] else if i.val = p then 0x80 else 0x00

/-- `BUF[112..127] <- BE128(LEN)` (R54). -/
def putLength (b : Block) (len : LenCount) : Block :=
  Vector.ofFn fun i : Fin 128 => if i.val < 112 then b[i.val] else lengthByte len (i.val - 112)

/-- FINAL in phase ABSORB: with p = `BUFPTR`, the length goes into the same block and a FINAL_LAST job
starts for p ≤ 111 (R53, R54), and a FINAL_FIRST job starts for p ≥ 112 (R53, R55). -/
def startFinal (s : State) : Result :=
  let p := s.bufptr.val
  if p ≤ 111 then
    .next ({ s with buf := putLength (padTerminator s.buf p) s.len }.startJob .finalLast)
  else if p ≤ 127 then
    .next ({ s with buf := padTerminator s.buf p }.startJob .finalFirst)
  else .fault .bufferPointer

/-- `PAD2` (R56). -/
def stepPad2 (s : State) : State :=
  { s with
    buf := putLength (Vector.replicate 128 0x00) s.len
    job := .finalLast
    mstep := .load }

end Sys2Proof.Machine
end

