-- ==== Sys2Proof/Machine/Commands.lean ====
section
/-! DEFINITION. The writes to CMD (spec 43_host_interface.md R82 to R85). -/

namespace Sys2Proof.Machine

/-- NOP does nothing, after the hold (R82). -/
def execNop (s : State) : Result := unlessBusy s fun s => .next s.retire

/-- INIT starts a new message with a fresh hash state, in every phase (R83). -/
def execInit (s : State) : Result := unlessBusy s fun s => .next s.openMessage.retire

/-- FINAL sets SEQERR outside phase ABSORB; in it, it pads and starts the final job (R84). -/
def execFinal (s : State) : Result :=
  unlessBusy s fun s =>
    if s.phase ≠ .absorb then .next (s.retire.raiseError .sequence) else startFinal s.retire

/-- A reserved command value sets CMDERR and has no other effect (R85). -/
def execCmdRsvd (_v : Byte) (s : State) : Result :=
  unlessBusy s fun s => .next (s.retire.raiseError .illegalCommand)

end Sys2Proof.Machine
end

