-- ==== Sys2Proof/Machine/Ignored.lean ====
section
/-! DEFINITION. The writes that are ignored (spec 43_host_interface.md R87, R88). -/

namespace Sys2Proof.Machine

/-- A write to a read-only offset changes nothing and sets no flag, after the hold (R87). -/
def execWrRo (_a _x : Byte) (s : State) : Result := unlessBusy s fun s => .next s.retire

/-- A write to a reserved offset changes nothing and sets no flag, after the hold (R88). -/
def execWrRsvd (_a _x : Byte) (s : State) : Result := unlessBusy s fun s => .next s.retire

end Sys2Proof.Machine
end

