-- ==== Sys2Proof/Machine/Message.lean ====
section
/-! DEFINITION. The write to DATA (spec 43_host_interface.md R86). -/

namespace Sys2Proof.Machine

/-- ABSORB offers one message byte to the padding unit (R86). -/
def execAbsorb (d : Byte) (s : State) : Result := unlessBusy s fun s => absorbByte s.retire d

end Sys2Proof.Machine
end

