-- ==== Sys2Proof/Machine/Reads.lean ====
section
/-! DEFINITION. The reads (spec 43_host_interface.md R89 to R92). -/

namespace Sys2Proof.Machine

/-- A STATUS read never holds (R89). -/
def execRdStatus (s : State) : Result := .next (s.respond (statusByte s))

/-- Digest byte i (R90). -/
def execRdDgst (i : BitVec 6) (s : State) : Result :=
  unlessBusy s fun s => .next (s.respond (readDgst s i))

/-- Hex character j (R91). -/
def execRdHex (j : BitVec 7) (s : State) : Result :=
  unlessBusy s fun s => .next (s.respond (readHex s j))

/-- CMD, DATA and the reserved offsets read 0x00 (R92). -/
def execRdZero (_a : Byte) (s : State) : Result := unlessBusy s fun s => .next (s.respond 0x00)

end Sys2Proof.Machine
end

