-- ==== Sys2Proof/Machine/Dispatch.lean ====
section
/-! DEFINITION. One arm per operation. -/

namespace Sys2Proof.Machine

def exec (i : Instr) (s : State) : Host.Outcome State Fault Refusal :=
  match i with
  | .nop => Sys2Proof.Machine.execNop s
  | .init => Sys2Proof.Machine.execInit s
  | .final => Sys2Proof.Machine.execFinal s
  | .cmdRsvd v => Sys2Proof.Machine.execCmdRsvd v s
  | .absorb d => Sys2Proof.Machine.execAbsorb d s
  | .wrRo a x => Sys2Proof.Machine.execWrRo a x s
  | .wrRsvd a x => Sys2Proof.Machine.execWrRsvd a x s
  | .rdStatus => Sys2Proof.Machine.execRdStatus s
  | .rdDgst n => Sys2Proof.Machine.execRdDgst n s
  | .rdHex j => Sys2Proof.Machine.execRdHex j s
  | .rdZero a => Sys2Proof.Machine.execRdZero a s

end Sys2Proof.Machine
end

