-- ==== Sys2Proof/Machine/Compression.lean ====
section
/-! DEFINITION. The SHA-512 compression engine (spec 41_compression.md): the logical functions and the
micro-steps LOAD, ROUND and UPDATE. -/

namespace Sys2Proof.Machine

/-! ### Logical functions -/

/-- `ROTR(x, n) = (x >> n) | (x << (64 − n))`, for 1 ≤ n ≤ 63 (R60). -/
def rotr (x : Word) (n : Nat) : Word := (x >>> n) ||| (x <<< (64 - n))

/-- `SHR(x, n) = x >> n` (R61). -/
def shr (x : Word) (n : Nat) : Word := x >>> n

/-- `Ch(x, y, z)` (R62). -/
def ch (x y z : Word) : Word := (x &&& y) ^^^ (~~~x &&& z)

/-- The exclusive or of three words, which `Maj` and the four sigma functions end in (R63 to R67). -/
def xor3 (u v w : Word) : Word := u ^^^ v ^^^ w

/-- `Maj(x, y, z)` (R63). -/
def maj (x y z : Word) : Word := xor3 (x &&& y) (x &&& z) (y &&& z)

/-- `Σ0` (R64). -/
def bigSigma0 (x : Word) : Word := xor3 (rotr x 28) (rotr x 34) (rotr x 39)

/-- `Σ1` (R65). -/
def bigSigma1 (x : Word) : Word := xor3 (rotr x 14) (rotr x 18) (rotr x 41)

/-- `σ0` (R66). -/
def smallSigma0 (x : Word) : Word := xor3 (rotr x 1) (rotr x 8) (shr x 7)

/-- `σ1` (R67). -/
def smallSigma1 (x : Word) : Word := xor3 (rotr x 19) (rotr x 61) (shr x 6)

/-! ### The round and the schedule word -/

/-- The message-schedule recurrence, from `W_{t−2}`, `W_{t−7}`, `W_{t−15}`, `W_{t−16}` (R70). -/
def expandWord (w2 w7 w15 w16 : Word) : Word := smallSigma1 w2 + w7 + smallSigma0 w15 + w16

/-- The word that round t uses, from the 16-word window: slot t for t < 16, else the recurrence over
the window's slots (R72). -/
def windowWord (win : Vector Word 16) (t : Nat) : Word :=
  if _h : t < 16 then win[t]
  else
    expandWord (win[(t - 2) % 16]'(Nat.mod_lt _ (by decide))) (win[(t - 7) % 16]'(Nat.mod_lt _ (by decide)))
      (win[(t - 15) % 16]'(Nat.mod_lt _ (by decide))) (win[(t - 16) % 16]'(Nat.mod_lt _ (by decide)))

/-- The window after round t: for t ≥ 16 slot `t mod 16` holds the round's word (R72). -/
def windowNext (win : Vector Word 16) (t : Nat) : Vector Word 16 :=
  if t < 16 then win else win.set (t % 16) (windowWord win t) (Nat.mod_lt _ (by decide))

/-- The round equations on (a..h) with round constant `k` and schedule word `w`: all eight new values
come from the old ones (R72). -/
def roundVars (v : HashWords) (k w : Word) : HashWords :=
  let t1 := v[7] + bigSigma1 v[4] + ch v[4] v[5] v[6] + k + w
  let t2 := bigSigma0 v[0] + maj v[0] v[1] v[2]
  #v[t1 + t2, v[0], v[1], v[2], v[3] + t1, v[4], v[5], v[6]]

/-- The feed-forward addition of `UPDATE` (R73). -/
def addWords (x y : HashWords) : HashWords := Vector.ofFn fun i : Fin 8 => x[i.val] + y[i.val]

/-! ### Micro-steps -/

/-- `LOAD` (R71). -/
def stepLoad (s : State) : State :=
  { s with
    w := Vector.ofFn fun j : Fin 16 => blockWord s.buf j
    wk := s.h
    t := 0
    mstep := .round }

/-- `ROUND`, taken only while `T < 80` (R72, R14); with `T = 80` the engine is stuck. -/
def stepRound (s : State) : Result :=
  if h : s.t.val < 80 then
    .next { s with
      w := windowNext s.w s.t.val
      wk := roundVars s.wk (roundConstants[s.t.val]) (windowWord s.w s.t.val)
      t := ⟨s.t.val + 1, by omega⟩
      mstep := if s.t.val + 1 = 80 then .update else s.mstep }
  else .fault .engineStuck

/-- `UPDATE` (R73). -/
def stepUpdate (s : State) : State :=
  let s' := { s with h := addWords s.h s.wk }
  match s.job with
  | .block => { s' with bufptr := 0, mstep := .load, busy := false }
  | .finalFirst => { s' with mstep := .pad2 }
  | .finalLast => { s' with mstep := .finish }

end Sys2Proof.Machine
end

