-- ==== Sys2Proof/Machine/Finalize.lean ====
section
/-! DEFINITION. Finalization and the hex encoder (spec 42_finalization_hex.md). -/

namespace Sys2Proof.Machine

/-- `hexchar(n)`: the ASCII code of the n-th character of `0123456789abcdef` (R79). -/
def hexchar (n : BitVec 4) : Byte :=
  if n.toNat ≤ 9 then 0x30 + n.setWidth 8 else 0x57 + n.setWidth 8

/-- The high nibble of byte i gives character 2i, the low nibble character 2i + 1 (R80). -/
def hexOfByte (b : Byte) (low : Bool) : Byte :=
  hexchar (if low then b.extractLsb' 0 4 else b.extractLsb' 4 4)

/-- The hex encoding of the 64 digest bytes (R80). -/
def hexEncode (d : Vector Byte 64) : Vector Byte 128 :=
  Vector.ofFn fun n : Fin 128 =>
    have := n.isLt
    hexOfByte (d[n.val / 2]) (n.val % 2 == 1)

/-- The hash state serialised big-endian, word 0 first: `DGST[8i + j] = H[i][63 − 8j : 56 − 8j]` (R77,
20_memory.md R33). -/
def serialize (h : HashWords) : Vector Byte 64 :=
  Vector.ofFn fun n : Fin 64 =>
    have := n.isLt
    wordByte (h[n.val / 8]) (n.val % 8)

/-- `FINISH` (R77). -/
def stepFinish (s : State) : State :=
  { s with
    dgst := serialize s.h
    hex := hexEncode (serialize s.h)
    bufptr := 0
    phase := .done
    job := .block
    mstep := .load
    busy := false }

/-! ### The inverse of the encoder, a test bench's function (R81) -/

/-- `val(c)` (R81). -/
def hexVal (c : Byte) : Byte := if c.toNat ≤ 0x39 then c - 0x30 else c - 0x57

/-- `16 · val(X[2i]) + val(X[2i+1])` (R81). -/
def hexDecode (x : Vector Byte 128) : Vector Byte 64 :=
  Vector.ofFn fun i : Fin 64 =>
    have := i.isLt
    16 * hexVal (x[2 * i.val]) + hexVal (x[2 * i.val + 1])

end Sys2Proof.Machine
end

