-- ==== Sys2Proof/Machine/Engine.lean ====
section
/-! DEFINITION. The engine agent: the micro-step `MSTEP` names, taken only while `BUSY = 1` (spec
10_state.md R15, 41_compression.md §4). -/

namespace Sys2Proof.Machine

/-- The engine's next micro-step. -/
def microStep (s : State) : Result :=
  match s.mstep with
  | .load => .next (stepLoad s)
  | .round => stepRound s
  | .update => .next (stepUpdate s)
  | .pad2 => .next (stepPad2 s)
  | .finish => .next (stepFinish s)

/-- The engine's turn: the micro-step, and a fresh free number of host turns before the next one. -/
def engineTurn (s : State) : Result :=
  match microStep s with
  | .next s' => .next s'.drawSlack
  | .fault f => .fault f
  | .refused r => .refused r

/-- `k` micro-steps in a row, with no host turn between them. -/
def microRun : Nat → State → Result
  | 0, s => .next s
  | k + 1, s =>
    match microStep s with
    | .next s' => microRun k s'
    | .fault f => .fault f
    | .refused r => .refused r

end Sys2Proof.Machine
end

