-- ==== Sys2Proof/Machine/Step.lean ====
section
/-! DEFINITION. One step of the machine: one action of one agent (spec 20_memory.md R36, R38;
70_reset_and_hazards.md R109, R113, R116). -/

namespace Sys2Proof.Machine

/-- One step: the reset, one micro-step of the engine, one transaction of the host, or nothing. -/
def step (s : State) : Host.Outcome State Fault Refusal :=
  match whoseTurn s with
  | .reset => .next s.applyReset
  | .engine => engineTurn s.passReset
  | .idle => .next s.passReset
  | .host r =>
    match fetch r with
    | .error e => .refused e
    | .ok i => exec i s.passReset.useTurn

/-- `s` with the transaction whose word is `w` presented, so that the very next step runs it. -/
def State.withFetchWord (s : State) (nbits w : Nat) : State :=
  s.present (Request.ofWord (w % 2 ^ nbits))

end Sys2Proof.Machine
end

