-- ==== Sys2Proof/Machine/Assembler.lean ====
section
/-! DEFINITION. The assembler's transactions and pseudo-instructions (spec 30_encoding.md R48, R49).
`WAIT` is a loop of the host's program and `RESET` is the reset input; neither is a transaction. -/

namespace Sys2Proof.Machine

/-- `WR a, d` (R48). -/
def Request.wr (a d : Byte) : Request := ⟨true, a.toNat, [d]⟩

/-- `RD a`; the DATA field of the request is 0 (R48, R42). -/
def Request.rd (a : Byte) : Request := ⟨false, a.toNat, [0x00]⟩

/-- The pseudo-instructions that expand to transactions (R49). -/
inductive Pseudo where
  | nop
  | init
  | final
  | absorb (b : Byte)
  /-- The bytes of an ASCII text, in order. -/
  | absorbs (text : List Byte)
  | rdstat
  | rddg (i : BitVec 6)
  | rdhex (j : BitVec 7)
  deriving DecidableEq, Repr

/-- The expansion of a pseudo-instruction (R49). -/
def Pseudo.expand : Pseudo → List Request
  | .nop => [.wr 0x00 0x00]
  | .init => [.wr 0x00 0x01]
  | .final => [.wr 0x00 0x02]
  | .absorb b => [.wr 0x02 b]
  | .absorbs text => text.map (.wr 0x02)
  | .rdstat => [.rd 0x01]
  | .rddg i => [.rd (0x40 + i.setWidth 8)]
  | .rdhex j => [.rd (0x80 + j.setWidth 8)]

/-- The transaction sequence that is the source's `digestHex(M)`: INIT, one ABSORB per byte, FINAL, and
the 128 characters read in order (43_host_interface.md R93). -/
def digestHexRequests (m : List Byte) : List Request :=
  Pseudo.init.expand ++ (Pseudo.absorbs m).expand ++ Pseudo.final.expand ++
    (List.range 128).map fun j => .rd (BitVec.ofNat 8 (0x80 + j))

end Sys2Proof.Machine
end

