-- ==== Sys2Proof/Machine/Platform.lean ====
section
/-! DEFINITION. A platform of `N_INST` instances, each with a state and a window of its own (spec
00_scope.md R6, 20_memory.md R27, R29, 60_exceptions.md R106). A thin layer over `step`: instances share
nothing. -/

namespace Sys2Proof.Machine

/-- What a bus master of the platform asks for: an access at a host address, one lane per byte. -/
structure HostAccess where
  write : Bool
  address : Nat
  lanes : List Byte
  deriving DecidableEq, Repr

/-- The instance whose window holds the host address, and the offset in it (R27). -/
def route (p : Platform) (address : Nat) : Option (Nat × Nat) :=
  (p.bases.zipIdx.find? fun e => decide (e.1 ≤ address ∧ address < e.1 + 256)).map
    fun e => (e.2, address - e.1)

/-- The access reaches the instance it addresses, after the accesses already on their way there (R38,
R39). An access that is not one byte wide, or that no window holds, is refused (R29). -/
def submit (p : Platform) (units : List State) (x : HostAccess) :
    Host.Outcome (List State) Fault Refusal :=
  if x.lanes.length ≠ 1 then .refused .notOneByte
  else
    match route p x.address with
    | none => .refused .outsideWindow
    | some (i, offset) =>
      match units[i]? with
      | none => .refused .noSuchInstance
      | some s => .next (units.set i { s with pending := s.pending ++ [⟨x.write, offset, x.lanes⟩] })

/-- A step of instance i: its own step, and nothing else moves (R106). Which instance steps next is the
argument `i`; all of them draw their schedules from one free function (assumption log 19). -/
def stepUnit (units : List State) (i : Nat) : Host.Outcome (List State) Fault Refusal :=
  match units[i]? with
  | none => .refused .noSuchInstance
  | some s =>
    match step s with
    | .next t => .next (units.set i t)
    | .fault f => .fault f
    | .refused r => .refused r

end Sys2Proof.Machine
end

