-- ==== Sys2Proof/Machine/Digest.lean ====
section
/-! DEFINITION. The computation as pure functions of the message: the message schedule, the compression
function, the padding, the digest and its hex string (spec 41_compression.md R70, R74, R75; 40_padding.md
R57, R58; 42_finalization_hex.md R78). The engine does not call them: they say what its micro-steps have
to come to. -/

namespace Sys2Proof.Machine

/-- `W_0 … W_{15+n}` of a block: sixteen words of the block, then n words of the recurrence (R70). -/
def scheduleWords (b : Block) : Nat → List Word
  | 0 => List.ofFn (blockWord b)
  | n + 1 =>
    let ws := scheduleWords b n
    ws ++ [expandWord (ws.getD (n + 14) 0) (ws.getD (n + 9) 0) (ws.getD (n + 1) 0) (ws.getD n 0)]

/-- `W_t` for 0 ≤ t ≤ 79 (R70). -/
def scheduleWord (b : Block) (t : Nat) : Word := (scheduleWords b 64).getD t 0

/-- (a..h) after the first `t` rounds on block `b` from chaining value `hin`, with `W_t` in place of the
window (R74). -/
def varsAfter (hin : HashWords) (b : Block) : Nat → HashWords
  | 0 => hin
  | t + 1 => roundVars (varsAfter hin b t) (roundConstants[t]?.getD 0) (scheduleWord b t)

/-- `Compress(Hin, B)` (R74). -/
def compress (hin : HashWords) (b : Block) : HashWords := addWords hin (varsAfter hin b 80)

/-- z, the number of zero bytes in the padding of a message of n bytes (R58). -/
def zeroCount (n : Nat) : Nat := (239 - n % 128) % 128

/-- `BE128(v)` (00_scope.md §4). -/
def be128 (len : LenCount) : List Byte := (List.range 16).map (lengthByte len)

/-- `M ‖ 0x80 ‖ 0x00^z ‖ BE128(8n)` (R58). -/
def padMessage (m : List Byte) : List Byte :=
  m ++ (0x80 :: (List.replicate (zeroCount m.length) 0x00 ++ be128 (BitVec.ofNat 128 (8 * m.length))))

/-- Block k of a byte sequence. -/
def blockAt (bs : List Byte) (k : Nat) : Block :=
  Vector.ofFn fun i : Fin 128 => bs.getD (128 * k + i.val) 0x00

/-- `H^(k)`: the first k blocks compressed, strictly in order, from `IV` (R75). -/
def hashBlocks (bs : List Byte) : Nat → HashWords
  | 0 => iv
  | k + 1 => compress (hashBlocks bs k) (blockAt bs k)

/-- The number of blocks compressed for a message of n bytes (R57). -/
def blockCount (n : Nat) : Nat := n / 128 + if n % 128 ≤ 111 then 1 else 2

/-- The SHA-512 digest of a message (R75, R78). -/
def sha512 (m : List Byte) : Vector Byte 64 :=
  serialize (hashBlocks (padMessage m) (blockCount m.length))

/-- `digestHex(M)`: the hex string of the digest (00_scope.md R1). -/
def digestHex (m : List Byte) : Vector Byte 128 := hexEncode (sha512 m)

end Sys2Proof.Machine
end

