-- ==== Sys2Proof/Safety.lean ====
section
/-! DEFINITION. The terms claims are made in: the invariants of spec 10_state.md R26, the message a state
is hashing, and runs that keep track of it. -/

namespace Sys2Proof.Machine

/-! ### The invariants of R26 -/

/-- R26 item 1. -/
abbrev IdleEngine (s : State) : Prop :=
  s.busy = false → s.bufptr.val ≤ 127 ∧ s.mstep = .load

/-- R26 item 2. -/
abbrev LengthCounts (s : State) : Prop :=
  s.len.toNat % 8 = 0 ∧
    (s.phase = .absorb → s.busy = false → s.len.toNat / 8 % 128 = s.bufptr.val)

/-- R26 item 3. -/
abbrev OverflowIsError (s : State) : Prop := s.lenovf = true ↔ s.phase = .error

/-- R26 item 4. -/
abbrev BusyAbsorbs (s : State) : Prop := s.busy = true → s.phase = .absorb

/-- R26 item 5. -/
abbrev NoResult (s : State) : Prop :=
  s.phase ≠ .done → s.dgst = Vector.replicate 64 0x00 ∧ s.hex = Vector.replicate 128 0x00

/-- What the sequencer keeps while a job runs, beside R26: `ROUND` is taken only while `T < 80` (R14);
only the `UPDATE` of a FINAL_FIRST job leads to `PAD2` and only that of a FINAL_LAST job to `FINISH`
(R56, R77); a BLOCK job runs on a full buffer (R10). -/
abbrev SequencerSound (s : State) : Prop :=
  s.busy = true →
    (s.mstep = .round → s.t.val < 80) ∧
    (s.mstep = .pad2 → s.job = .finalFirst) ∧
    (s.mstep = .finish → s.job = .finalLast) ∧
    (s.job = .block → s.bufptr.val = 128 ∧ s.len.toNat / 8 % 128 = 0)

/-- The invariant every step keeps: R26 items 1 to 5, and the sequencer's. -/
abbrev Invariant (s : State) : Prop :=
  IdleEngine s ∧ LengthCounts s ∧ OverflowIsError s ∧ BusyAbsorbs s ∧ NoResult s ∧ SequencerSound s

/-! ### The message a state is hashing -/

/-- The longest message has 2^125 − 1 bytes (00_scope.md R5). -/
def maxBytes : Nat := 2 ^ 125 - 1

/-- Between jobs, with the message `m` absorbed so far: its length is counted, its full blocks are
compressed, and its last bytes are in the buffer. -/
structure Absorbing (s : State) (m : List Byte) : Prop where
  phase : s.phase = .absorb
  idle : s.busy = false
  bytes : m.length ≤ maxBytes
  len : s.len.toNat = 8 * m.length
  bufptr : s.bufptr.val = m.length % 128
  chain : s.h = hashBlocks m (m.length / 128)
  buffer : ∀ i : Fin 128, i.val < m.length % 128 → s.buf[i.val] = m.getD (128 * (m.length / 128) + i.val) 0

/-- The number of the block of the padded message that the running job compresses, for a message of n
bytes: the last full block, the first of two final blocks, or the last block. -/
def jobBlock (n : Nat) : Job → Nat
  | .block => n / 128 - 1
  | .finalFirst => n / 128
  | .finalLast => blockCount n - 1

/-- Which jobs a message of n bytes can have: a BLOCK job when its last byte filled the buffer (R52), a
FINAL_FIRST job when the length does not fit after the terminator (R55). -/
def jobFits (n : Nat) : Job → Prop
  | .block => n % 128 = 0 ∧ 0 < n
  | .finalFirst => 112 ≤ n % 128
  | .finalLast => True

/-- Before round t the window holds the sixteen schedule words last computed, the block's own sixteen up
to round 16, word `W_u` in slot u mod 16 (10_state.md R13, 41_compression.md R70). -/
def WindowHolds (win : Vector Word 16) (b : Block) (t : Nat) : Prop :=
  ∀ u : Nat, u < max 16 t → max 16 t ≤ u + 16 →
    win[u % 16]'(Nat.mod_lt _ (by decide)) = scheduleWord b u

/-- While a job runs for message `m`: which micro-steps of the compression of the job's block have been
taken. Before the `UPDATE` the chaining value is that of the blocks before; after it, with the block's
own. -/
def Compressing (s : State) (m : List Byte) : Prop :=
  let k := jobBlock m.length s.job
  match s.mstep with
  | .load => s.h = hashBlocks (padMessage m) k ∧ s.buf = blockAt (padMessage m) k
  | .round =>
    s.h = hashBlocks (padMessage m) k ∧ s.buf = blockAt (padMessage m) k ∧
    s.wk = varsAfter s.h s.buf s.t.val ∧
    WindowHolds s.w s.buf s.t.val
  | .update =>
    s.h = hashBlocks (padMessage m) k ∧ s.buf = blockAt (padMessage m) k ∧
    s.wk = varsAfter s.h s.buf 80
  | .pad2 => s.job = .finalFirst ∧ s.h = hashBlocks (padMessage m) (k + 1)
  | .finish => s.job = .finalLast ∧ s.h = hashBlocks (padMessage m) (k + 1)

/-- While a job runs for message `m`. -/
structure Working (s : State) (m : List Byte) : Prop where
  phase : s.phase = .absorb
  busy : s.busy = true
  bytes : m.length ≤ maxBytes
  len : s.len.toNat = 8 * m.length
  fits : jobFits m.length s.job
  compressing : Compressing s m

/-- `s` is hashing `m`, or holds its digest (R26 item 6): the message of the last INIT is being absorbed
or compressed, or FINAL has completed and the result buffers hold its digest and its hex string. -/
def Hashing (s : State) (m : List Byte) : Prop :=
  match s.phase with
  | .idle => True
  | .error => True
  | .absorb => if s.busy then Working s m else Absorbing s m
  | .done => s.dgst = sha512 m ∧ s.hex = digestHex m

/-! ### Runs that keep track of the message -/

/-- The bytes accepted since the last INIT, after the step from `s`: INIT starts the message afresh,
each accepted ABSORB adds its byte, and reset forgets it. -/
def messageAfter (s : State) (m : List Byte) : List Byte :=
  match whoseTurn s with
  | .reset => []
  | .engine => m
  | .idle => m
  | .host r =>
    match fetch r with
    | .error _ => m
    | .ok i =>
      match i with
      | .init => if s.busy then m else []
      | .absorb d => if s.busy ∨ s.phase ≠ .absorb ∨ s.len = maxLen then m else m ++ [d]
      | _ => m

/-- `k` steps from `s`, with the message kept track of; none when the machine stops. -/
def trackedRun : Nat → State → List Byte → Option (State × List Byte)
  | 0, s, m => some (s, m)
  | k + 1, s, m =>
    match step s with
    | .next s' => trackedRun k s' (messageAfter s m)
    | .fault _ => none
    | .refused _ => none

/-- Every element of 10_state.md at its reset value (70_reset_and_hazards.md R109). -/
structure AtReset (s : State) : Prop where
  h : s.h = Vector.replicate 8 0
  buf : s.buf = Vector.replicate 128 0x00
  bufptr : s.bufptr.val = 0
  len : s.len = 0
  wk : s.wk = Vector.replicate 8 0
  w : s.w = Vector.replicate 16 0
  t : s.t.val = 0
  mstep : s.mstep = .load
  job : s.job = .block
  busy : s.busy = false
  phase : s.phase = .idle
  lenovf : s.lenovf = false
  seqerr : s.seqerr = false
  cmderr : s.cmderr = false
  dgst : s.dgst = Vector.replicate 64 0x00
  hex : s.hex = Vector.replicate 128 0x00
  status : statusByte s = 0x00

/-- `s` as the host sees it at power-up: the reset state, with the accesses `accesses` to come and the
reset input following `levels`. -/
def State.powerUp (accesses : List Request) (levels : List Bool) : State :=
  { State.reset with pending := accesses, resetIn := levels }

/-- `k` steps from `s`, stopping at the first fault or refusal. -/
def runSteps : Nat → State → Result
  | 0, s => .next s
  | k + 1, s =>
    match step s with
    | .next s' => runSteps k s'
    | .fault f => .fault f
    | .refused r => .refused r

end Sys2Proof.Machine
end

