-- ==== Sys2Proof/Certificates/Slice0/Obligations.lean ====
section
/-! DEFINITION. What is claimed of SHA512HX, statement by statement; each docstring names the rules of
the spec it formalises. A state written with `with` names everything that changes: every field that it
does not name is unchanged. The host's side of the bus in these states (`pending`, `holding`, `returned`,
`resetIn`) and the schedule (`slack`, `tick`) are the model's own bookkeeping (assumption log 3 to 6). -/

open Sys2Proof Sys2Proof.Machine

/-! ### Decoding and the register map -/

/-- The words of programs P1 to P4 (95_test_vectors.md §3) decode to the operations written beside
them there. A sanity statement. -/
def Obligations.SpecProgramWordsDecode : Prop :=
  decodeTableWord 24 0x10000 = some .nop ∧
  decodeTableWord 24 0x10001 = some .init ∧
  decodeTableWord 24 0x10002 = some .final ∧
  decodeTableWord 24 0x10007 = some (.cmdRsvd 0x07) ∧
  decodeTableWord 24 0x10261 = some (.absorb 0x61) ∧
  decodeTableWord 24 0x14000 = some (.wrRo 0x40 0x00) ∧
  decodeTableWord 24 0x110FF = some (.wrRsvd 0x10 0xFF) ∧
  decodeTableWord 24 0x00100 = some .rdStatus ∧
  decodeTableWord 24 0x07F00 = some (.rdDgst 63) ∧
  decodeTableWord 24 0x0FF00 = some (.rdHex 127) ∧
  decodeTableWord 24 0x01000 = some (.rdZero 0x10)

/-- Decoding the encoding of any well-formed operation gives it back, with every operand at every value
the encoding admits (30_encoding.md R42 to R45). -/
def Obligations.DecodeOfEncodeIsIdentity : Prop :=
  ∀ i : Instr, i.wf = true → decode (encode i) = .ok i

/-- Every one of the 2^17 words decodes to a well-formed operation, and encoding that gives the word
back, for a read with its ignored DATA field 0 (R42, R47). -/
def Obligations.EncodeOfDecodeIsTheWord : Prop :=
  ∀ w : TxnWord,
    decode (wordBytes w) = .ok (decodeWord w) ∧ (decodeWord w).wf = true ∧
    encodeWord (decodeWord w) = if w.rw then w else mkTxnWord false w.addr 0x00

/-- The decoder accepts exactly the bytes of transaction words (the byte layout is the model's choice,
assumption log 2). -/
def Obligations.DecoderAcceptsExactlyWords : Prop :=
  ∀ bs : List Byte, (∃ i, decode bs = .ok i) ↔ ∃ w : TxnWord, bs = wordBytes w

/-- R47: of the rows of spec/opcode_table.json exactly one matches any word, the decoder gives that
row's operation, and the read rows mask out the DATA field. -/
def Obligations.ExactlyOneTableRowMatches : Prop :=
  opcodeTable.length = 29 ∧
  (∀ w : TxnWord, ∃ r : Row,
    opcodeTable.filter (fun r => r.matchesWord w) = [r] ∧ r.op = (decodeWord w).op) ∧
  ∀ r ∈ readRows, r.mask.data = 0x00

/-- R44: the register map. Reads return the byte of the read column (STATUS without a hold); writes to
CMD and DATA are commands and message bytes, and every other write is ignored. -/
def Obligations.RegisterMap : Prop :=
  ∀ (s : State) (a x : Byte),
    (s.busy = false ∨ a = 0x01 →
      exec (decodeWord (mkTxnWord false a x)) s = .next { s with
        pending := s.pending.tail, holding := false, returned := s.returned ++ [readWindow s a] }) ∧
    (a.toNat = 0x00 ∨ a.toNat = 0x02 ∨ 0x03 ≤ a.toNat ∧ a.toNat ≤ 0x3F → readWindow s a = 0x00) ∧
    (a = 0x01 → readWindow s a = statusByte s) ∧
    (∀ i : Fin 64, a.toNat = 0x40 + i.val → readWindow s a = s.dgst[i.val]) ∧
    (∀ j : Fin 128, a.toNat = 0x80 + j.val → readWindow s a = s.hex[j.val]) ∧
    (a = 0x00 → decodeWord (mkTxnWord true a x) = decodeCommand x) ∧
    (a = 0x02 → decodeWord (mkTxnWord true a x) = .absorb x) ∧
    (a ≠ 0x00 → a ≠ 0x02 → s.busy = false →
      exec (decodeWord (mkTxnWord true a x)) s =
        .next { s with pending := s.pending.tail, holding := false })

/-- R49: the pseudo-instructions expand to accesses that are the operations of those names. -/
def Obligations.PseudoInstructionsExpand : Prop :=
  Pseudo.nop.expand.map fetch = [.ok .nop] ∧
  Pseudo.init.expand.map fetch = [.ok .init] ∧
  Pseudo.final.expand.map fetch = [.ok .final] ∧
  Pseudo.rdstat.expand.map fetch = [.ok .rdStatus] ∧
  (∀ b, (Pseudo.absorb b).expand.map fetch = [.ok (.absorb b)]) ∧
  (∀ text, (Pseudo.absorbs text).expand.map fetch = text.map fun b => .ok (.absorb b)) ∧
  (∀ i, (Pseudo.rddg i).expand.map fetch = [.ok (.rdDgst i)]) ∧
  (∀ j, (Pseudo.rdhex j).expand.map fetch = [.ok (.rdHex j)])

/-! ### The step -/

/-- What a step is. When it is the host's turn and the access presented is a one-byte access inside the
window whose word decodes to `i`, the step is `exec i`; around it the step passes one level of the reset
input and, while the engine is busy, one of the host turns that may pass (assumption log 4, 5). An access
placed by `withFetchWord` is performed by the very next step. While the engine is busy and the host has
nothing to do, is holding, or has no turn left, the step is the engine's micro-step, followed by the draw of
a free value (assumption log 4). With the engine idle and nothing pending, a step changes nothing but the
level of the reset input that goes by (assumption log 10). -/
def Obligations.StepRunsTheDecodedInstruction : Prop :=
  (∀ (s : State) (write : Bool) (offset : Nat) (d : Byte) (rest : List Request) (i : Instr),
    s.resetIn.head? ≠ some true → s.pending = ⟨write, offset, [d]⟩ :: rest → offset < 256 →
    decode (wordBytes (mkTxnWord write (BitVec.ofNat 8 offset) d)) = .ok i →
    (s.busy = false ∨ s.holding = false ∧ s.slack ≠ 0) →
    step s = exec i { s with
      resetIn := s.resetIn.tail
      slack := if s.busy then s.slack - 1 else s.slack }) ∧
  (∀ (s : State) (w : Nat) (i : Instr), w < 2 ^ 17 → decodeTableWord 24 w = some i →
    step (s.withFetchWord 24 w) = exec i { s with
      pending := Request.ofWord w :: s.pending
      holding := false
      resetIn := []
      slack := if s.busy then s.slack - 1 else s.slack }) ∧
  (∀ s : State, s.resetIn.head? ≠ some true → s.busy = true →
    (s.pending = [] ∨ s.holding = true ∨ s.slack = 0) →
    (∀ u, microStep { s with resetIn := s.resetIn.tail } = .next u →
      step s = .next { u with slack := Config.hostTurnsBefore u.tick, tick := u.tick + 1 }) ∧
    (∀ e, microStep { s with resetIn := s.resetIn.tail } = .fault e → step s = .fault e)) ∧
  (∀ s : State, s.resetIn.head? ≠ some true → s.busy = false → s.pending = [] →
    step s = .next { s with resetIn := s.resetIn.tail })

/-- An access that is not one byte wide, or that lies outside offsets 0x00..0xFF, is refused (20_memory.md
§1): when it is presented, which is the model's reading (assumption log 8). -/
def Obligations.NonTransactionsAreRefused : Prop :=
  ∀ (s : State) (r : Request) (rest : List Request),
    s.resetIn.head? ≠ some true → s.pending = r :: rest →
    (s.busy = false ∨ s.holding = false ∧ s.slack ≠ 0) →
    (r.lanes.length ≠ 1 → step s = .refused .notOneByte) ∧
    (r.lanes.length = 1 → 256 ≤ r.offset → step s = .refused .outsideWindow)

/-- R113: while `BUSY = 1` every transaction but a STATUS read holds and has no effect; while it holds
the host has no step and only the engine (or reset) moves; when the engine has set `BUSY <- 0` it is
performed by its rule against the state at that moment. A STATUS read never holds. -/
def Obligations.TransactionsHoldWhileBusy : Prop :=
  (∀ (s : State) (i : Instr), s.busy = true → i ≠ .rdStatus →
    exec i s = .next { s with holding := true }) ∧
  (∀ s : State, s.busy = true → exec .rdStatus s = .next { s with
    pending := s.pending.tail, holding := false, returned := s.returned ++ [statusByte s] }) ∧
  (∀ s t : State, s.busy = true → s.holding = true → s.pending ≠ [] →
    s.resetIn.head? ≠ some true → step s = .next t →
    (∃ u, microStep { s with resetIn := s.resetIn.tail } = .next u ∧
      t = { u with slack := t.slack, tick := t.tick }) ∧
    t.pending = s.pending ∧ t.holding = true ∧ t.returned = s.returned) ∧
  (∀ (s : State) (r : Request) (rest : List Request) (i : Instr), s.busy = false →
    s.resetIn.head? ≠ some true → s.pending = r :: rest → fetch r = .ok i →
    step s = exec i { s with resetIn := s.resetIn.tail })

/-- While `BUSY = 1` the engine's next micro-step is eventually taken (70_reset_and_hazards.md §3): whatever
the schedule, after at most as many host turns as may still pass, none of which changes an element of
10_state.md, it is the engine's turn, and the next step is its micro-step. That the schedule is fair by its
form is the model's choice (assumption log 4). -/
def Obligations.EngineTurnComes : Prop :=
  ∀ s : State, Invariant s → s.busy = true → true ∉ s.resetIn →
    (∀ r ∈ s.pending, ∃ i, fetch r = .ok i) →
    ∃ k t u, k ≤ s.slack ∧ runSteps k s = .next t ∧ whoseTurn t = .engine ∧
      t = { s with
        pending := t.pending
        holding := t.holding
        returned := t.returned
        resetIn := t.resetIn
        slack := t.slack } ∧
      microStep { t with resetIn := t.resetIn.tail } = .next u ∧
      step t = .next { u with slack := Config.hostTurnsBefore u.tick, tick := u.tick + 1 }

/-- R116, R115: a held transaction completes: within 166 steps the engine has set `BUSY <- 0` with
nothing of the host's side changed, and the next step performs it. -/
def Obligations.HeldTransactionCompletes : Prop :=
  ∀ (s : State) (r : Request) (rest : List Request) (i : Instr),
    Invariant s → s.busy = true → s.holding = true → s.pending = r :: rest → fetch r = .ok i →
    true ∉ s.resetIn →
    ∃ k t, k ≤ 166 ∧ runSteps k s = .next t ∧ t.busy = false ∧ t.pending = s.pending ∧
      t.returned = s.returned ∧ step t = exec i { t with resetIn := t.resetIn.tail }

/-- R38: transactions are performed one at a time, in the order the host issues them: a step without
reset leaves the pending accesses as they are, or completes the first of them; only then can a byte be
returned, and at most one, after the earlier ones. -/
def Obligations.OneTransactionAtATime : Prop :=
  ∀ s t : State, s.resetIn.head? ≠ some true → step s = .next t →
    (t.pending = s.pending ∧ t.returned = s.returned) ∨
    (∃ r, s.pending = r :: t.pending ∧ t.holding = false ∧
      (t.returned = s.returned ∨ ∃ b, t.returned = s.returned ++ [b]))

/-! ### Reset -/

/-- While the reset input is asserted a step leaves every element at its reset value, a job in progress is
abandoned, a holding transaction is cancelled and returns no byte, and no transaction completes (R109);
`State.reset` is such a state. That the accesses not yet issued stay in `pending` and the bytes already
received stay in `returned` is the model's choice (assumption log 5). -/
def Obligations.ResetSetsEveryElement : Prop :=
  AtReset State.reset ∧
  ∀ s : State, s.resetIn.head? = some true →
    ∃ t, step s = .next t ∧ AtReset t ∧ t.holding = false ∧ t.returned = s.returned ∧
      (s.holding = true → t.pending = s.pending.tail) ∧ (s.holding = false → t.pending = s.pending)

/-- R110: reset does not load `IV` into `H`; after it `PHASE = IDLE`, and a DATA write or FINAL sets
SEQERR until INIT, which loads `IV`. -/
def Obligations.ResetNeedsInit : Prop :=
  State.reset.h ≠ iv ∧ State.reset.phase = .idle ∧
  (∀ (s : State) (i : Instr), s.phase = .idle → s.busy = false → i ≠ .init →
    ∃ t, exec i s = .next t ∧ t.phase = .idle ∧ t.busy = false ∧
      (i = .final ∨ (∃ d, i = .absorb d) → t.seqerr = true)) ∧
  (∀ s : State, s.busy = false → ∃ t, exec .init s = .next t ∧ t.h = iv ∧ t.phase = .absorb)

/-! ### STATUS -/

/-- R20: the layout of STATUS; a write to offset 0x01 changes nothing; its reset value is 0x00. -/
def Obligations.StatusLayout : Prop :=
  (∀ s : State,
    (statusByte s).getLsbD 0 = s.busy ∧
    (statusByte s).extractLsb' 1 2 = s.phase.code ∧
    (statusByte s).getLsbD 3 = s.lenovf ∧
    (statusByte s).getLsbD 4 = s.seqerr ∧
    (statusByte s).getLsbD 5 = s.cmderr ∧
    (statusByte s).extractLsb' 6 2 = 0 ∧
    readWindow s 0x01 = statusByte s ∧
    ∀ x, s.busy = false → decodeWord (mkTxnWord true 0x01 x) = .wrRo 0x01 x ∧
      exec (.wrRo 0x01 x) s = .next { s with pending := s.pending.tail, holding := false }) ∧
  statusByte State.reset = 0x00

/-- R18: the codes of PHASE, its reset value, and who writes it: INIT (ABSORB), `FINISH` (DONE), the
overflow check (ERROR) and reset (IDLE), and nothing else. -/
def Obligations.PhaseWriters : Prop :=
  (Phase.idle.code = 0 ∧ Phase.absorb.code = 1 ∧ Phase.done.code = 2 ∧ Phase.error.code = 3) ∧
  State.reset.phase = .idle ∧
  (∀ s : State, s.busy = false → ∃ t, exec .init s = .next t ∧ t.phase = .absorb) ∧
  (∀ s : State, (stepFinish s).phase = .done) ∧
  (∀ (s : State) (d : Byte), s.busy = false → s.phase = .absorb → s.len = maxLen →
    ∃ t, exec (.absorb d) s = .next t ∧ t.phase = .error) ∧
  ∀ s t : State, step s = .next t → t.phase ≠ s.phase →
    (whoseTurn s = .reset ∧ t.phase = .idle) ∨
    (whoseTurn s = .engine ∧ s.mstep = .finish ∧ t.phase = .done) ∨
    (∃ r, whoseTurn s = .host r ∧ fetch r = .ok .init ∧ s.busy = false ∧ t.phase = .absorb) ∨
    (∃ r d, whoseTurn s = .host r ∧ fetch r = .ok (.absorb d) ∧ s.busy = false ∧
      s.phase = .absorb ∧ s.len = maxLen ∧ t.phase = .error)

/-- Who writes BUSY (10_state.md §5): it becomes 1 by a DATA write that fills the buffer or by FINAL in
phase ABSORB, and 0 by the `UPDATE` of a BLOCK job, by `FINISH`, or by reset. -/
def Obligations.BusyWriters : Prop :=
  ∀ s t : State, step s = .next t →
    (s.busy = false → t.busy = true →
      s.phase = .absorb ∧ t.mstep = .load ∧ ∃ r, whoseTurn s = .host r ∧
        ((∃ d, fetch r = .ok (.absorb d) ∧ s.bufptr.val = 127 ∧ t.job = .block) ∨
          (fetch r = .ok .final ∧ t.job = if s.bufptr.val ≤ 111 then .finalLast else .finalFirst))) ∧
    (s.busy = true → t.busy = false →
      whoseTurn s = .reset ∨
      (whoseTurn s = .engine ∧ (s.mstep = .update ∧ s.job = .block ∨ s.mstep = .finish)))

/-- The error flags are sticky (10_state.md §5, 60_exceptions.md §3): a flag that is set stays set in
every step but a reset and an INIT that is performed, and INIT clears all three. -/
def Obligations.ErrorFlagsAreSticky : Prop :=
  (∀ s t : State, step s = .next t → whoseTurn s ≠ .reset →
    (s.busy = true ∨ ∀ r, whoseTurn s = .host r → fetch r ≠ .ok .init) →
    (s.lenovf = true → t.lenovf = true) ∧ (s.seqerr = true → t.seqerr = true) ∧
    (s.cmderr = true → t.cmderr = true)) ∧
  (∀ s : State, s.busy = false → ∃ t, exec .init s = .next t ∧
    t.lenovf = false ∧ t.seqerr = false ∧ t.cmderr = false)

/-! ### The transactions -/

/-- R82: NOP does nothing, in any phase; while `BUSY = 1` it holds. -/
def Obligations.NopDoesNothing : Prop :=
  decodeTableWord 24 0x10000 = some .nop ∧
  ∀ s : State,
    (s.busy = false → exec .nop s = .next { s with pending := s.pending.tail, holding := false }) ∧
    (s.busy = true → exec .nop s = .next { s with holding := true })

/-- R83: INIT, in every phase. -/
def Obligations.InitStartsAMessage : Prop :=
  decodeTableWord 24 0x10001 = some .init ∧
  ∀ s : State,
    (s.busy = false → exec .init s = .next { s with
      h := iv
      buf := Vector.replicate 128 0x00
      bufptr := 0
      len := 0
      dgst := Vector.replicate 64 0x00
      hex := Vector.replicate 128 0x00
      phase := .absorb
      lenovf := false
      seqerr := false
      cmderr := false
      pending := s.pending.tail
      holding := false }) ∧
    (s.busy = true → exec .init s = .next { s with holding := true })

/-- R53, R54, R55: FINAL in phase ABSORB with p = `BUFPTR` ≤ 127 writes the terminator and the zeros,
for p ≤ 111 the big-endian length, and starts the job; no other element of the block changes. -/
def Obligations.FinalPadsTheLastBlock : Prop :=
  ∀ s : State, s.busy = false → s.phase = .absorb → s.bufptr.val ≤ 127 →
    ∃ b : Block,
      (∀ i : Fin 128, b[i.val] =
        if i.val < s.bufptr.val then s.buf[i.val]
        else if i.val = s.bufptr.val then 0x80
        else if s.bufptr.val ≤ 111 ∧ 112 ≤ i.val then s.len.extractLsb' (120 - 8 * (i.val - 112)) 8
        else 0x00) ∧
      exec .final s = .next { s with
        buf := b
        job := if s.bufptr.val ≤ 111 then .finalLast else .finalFirst
        mstep := .load
        busy := true
        slack := Config.hostTurnsBefore s.tick
        tick := s.tick + 1
        pending := s.pending.tail
        holding := false }

/-- R97: a sequence error is raised by ABSORB and FINAL outside phase ABSORB, sets SEQERR, and has no
other effect, whatever `LEN` holds. -/
def Obligations.SequenceErrors : Prop :=
  ∀ (s : State) (i : Instr), (i = .final ∨ ∃ d, i = .absorb d) → s.busy = false →
    s.phase ≠ .absorb →
    exec i s = .next { s with seqerr := true, pending := s.pending.tail, holding := false }

/-- R85, R98: a reserved command value sets CMDERR and has no other effect, in any phase. -/
def Obligations.ReservedCommandSetsCmderr : Prop :=
  ∀ (s : State) (v : Byte),
    (s.busy = false → exec (.cmdRsvd v) s =
      .next { s with cmderr := true, pending := s.pending.tail, holding := false }) ∧
    (s.busy = true → exec (.cmdRsvd v) s = .next { s with holding := true }) ∧
    (3 ≤ v.toNat → decodeWord (mkTxnWord true 0x00 v) = .cmdRsvd v)

/-- R51: in phase ABSORB with `LEN = 2^128 − 8` a DATA write raises `LengthOverflow` and the byte is not
stored; with any other `LEN` it is not raised, and `LEN` does not wrap. -/
def Obligations.LengthOverflowIsRaised : Prop :=
  ∀ (s : State) (d : Byte), s.busy = false → s.phase = .absorb →
    (s.len.toNat = 2 ^ 128 - 8 → exec (.absorb d) s = .next { s with
      phase := .error
      lenovf := true
      pending := s.pending.tail
      holding := false }) ∧
    (s.len.toNat ≠ 2 ^ 128 - 8 → ∀ t, exec (.absorb d) s = .next t →
      t.phase = .absorb ∧ t.lenovf = s.lenovf ∧
      (s.len.toNat % 8 = 0 → t.len.toNat = s.len.toNat + 8))

/-- R52: a DATA write that neither check stops stores the byte, counts it, and starts a BLOCK job when
the buffer becomes full. -/
def Obligations.AbsorbStoresTheByte : Prop :=
  ∀ (s : State) (d : Byte), s.busy = false → s.phase = .absorb → s.len.toNat ≠ 2 ^ 128 - 8 →
    s.bufptr.val ≤ 127 →
    ∃ (b : Block) (p : Fin 129),
      (∀ i : Fin 128, b[i.val] = if i.val = s.bufptr.val then d else s.buf[i.val]) ∧
      p.val = s.bufptr.val + 1 ∧
      (p.val ≠ 128 → exec (.absorb d) s = .next { s with
        buf := b
        bufptr := p
        len := s.len + 8
        pending := s.pending.tail
        holding := false }) ∧
      (p.val = 128 → exec (.absorb d) s = .next { s with
        buf := b
        bufptr := p
        len := s.len + 8
        job := .block
        mstep := .load
        busy := true
        slack := Config.hostTurnsBefore s.tick
        tick := s.tick + 1
        pending := s.pending.tail
        holding := false })

/-- R87, R88: writes to read-only and to reserved offsets are ignored and set no flag, and still hold
while `BUSY = 1`. -/
def Obligations.IgnoredWrites : Prop :=
  (∀ (s : State) (a x : Byte) (i : Instr), (i = .wrRo a x ∨ i = .wrRsvd a x) →
    (s.busy = false → exec i s = .next { s with pending := s.pending.tail, holding := false }) ∧
    (s.busy = true → exec i s = .next { s with holding := true })) ∧
  ∀ a x : Byte,
    (a.toNat = 0x01 ∨ 0x40 ≤ a.toNat → decodeWord (mkTxnWord true a x) = .wrRo a x) ∧
    (0x03 ≤ a.toNat → a.toNat ≤ 0x3F → decodeWord (mkTxnWord true a x) = .wrRsvd a x)

/-- R89: a STATUS read returns STATUS, never holds and clears nothing; while a job runs it returns 0x03
and the sticky bits. -/
def Obligations.StatusReadNeverHolds : Prop :=
  (∀ s : State, exec .rdStatus s = .next { s with
    pending := s.pending.tail, holding := false, returned := s.returned ++ [statusByte s] }) ∧
  (∀ s : State, s.busy = true → BusyAbsorbs s → OverflowIsError s →
    statusByte s = 0x03 + (if s.seqerr then 0x10 else 0x00) + (if s.cmderr then 0x20 else 0x00)) ∧
  ∀ x : Byte, decodeWord (mkTxnWord false 0x01 x) = .rdStatus

/-- R90, R91: reading digest byte i and hex character j; both hold while `BUSY = 1`, change nothing but
what the host has received, and return 0x00 in phases other than DONE. -/
def Obligations.ResultReads : Prop :=
  ∀ (s : State) (i : BitVec 6) (j : BitVec 7) (x : Byte),
    (s.busy = false → exec (.rdDgst i) s = .next { s with
      pending := s.pending.tail, holding := false, returned := s.returned ++ [s.dgst[i.toNat]'i.isLt] }) ∧
    (s.busy = false → exec (.rdHex j) s = .next { s with
      pending := s.pending.tail, holding := false, returned := s.returned ++ [s.hex[j.toNat]'j.isLt] }) ∧
    (s.busy = true → exec (.rdDgst i) s = .next { s with holding := true } ∧
      exec (.rdHex j) s = .next { s with holding := true }) ∧
    (NoResult s → s.phase ≠ .done → s.dgst[i.toNat]'i.isLt = 0x00 ∧ s.hex[j.toNat]'j.isLt = 0x00) ∧
    ((0x40 + i.setWidth 8 : Byte).toNat = 0x40 + i.toNat ∧ (0x80 + j.setWidth 8 : Byte).toNat = 0x80 + j.toNat) ∧
    decodeWord (mkTxnWord false (0x40 + i.setWidth 8) x) = .rdDgst i ∧
    decodeWord (mkTxnWord false (0x80 + j.setWidth 8) x) = .rdHex j

/-- R92: CMD, DATA and the reserved offsets read 0x00, in every phase; the read holds while
`BUSY = 1`. -/
def Obligations.ZeroReads : Prop :=
  ∀ (s : State) (a x : Byte),
    (s.busy = false → exec (.rdZero a) s = .next { s with
      pending := s.pending.tail, holding := false, returned := s.returned ++ [0x00] }) ∧
    (s.busy = true → exec (.rdZero a) s = .next { s with holding := true }) ∧
    (a.toNat = 0x00 ∨ a.toNat = 0x02 ∨ 0x03 ≤ a.toNat ∧ a.toNat ≤ 0x3F →
      decodeWord (mkTxnWord false a x) = .rdZero a)

/-- R37: reads have no side effects: nothing changes but what the host has received, and a repeated read
returns the same byte; writes to every offset but CMD and DATA have no effect at all; two DATA writes of the
same byte absorb two bytes. -/
def Obligations.ReadsHaveNoSideEffects : Prop :=
  (∀ (s t : State) (a x : Byte), exec (decodeWord (mkTxnWord false a x)) s = .next t →
    { t with pending := s.pending, holding := s.holding, returned := s.returned } = s) ∧
  (∀ (s : State) (a x y : Byte), s.busy = false →
    ∃ t u b, exec (decodeWord (mkTxnWord false a x)) s = .next t ∧
      exec (decodeWord (mkTxnWord false a y)) t = .next u ∧
      t.returned = s.returned ++ [b] ∧ u.returned = t.returned ++ [b]) ∧
  (∀ (s t : State) (a x : Byte), a ≠ 0x00 → a ≠ 0x02 →
    exec (decodeWord (mkTxnWord true a x)) s = .next t →
    { t with pending := s.pending, holding := s.holding } = s) ∧
  (∀ (s : State) (d : Byte), s.busy = false → s.phase = .absorb → s.bufptr.val ≤ 125 →
    s.len.toNat < 2 ^ 128 - 16 →
    ∃ t u, exec (.absorb d) s = .next t ∧ exec (.absorb d) t = .next u ∧
      u.bufptr.val = s.bufptr.val + 2 ∧ u.len = s.len + 16)

/-- The frame of the window (20_memory.md §4, 43_host_interface.md): no transaction but INIT changes a
byte of the window other than STATUS, and the transactions that raise no error and start no job do not
change STATUS either. -/
def Obligations.WindowFrame : Prop :=
  ∀ (i : Instr) (s t : State) (a : Byte), exec i s = .next t → i ≠ .init →
    (a ≠ 0x01 → readWindow t a = readWindow s a) ∧
    (i ≠ .final → (∀ d, i ≠ .absorb d) → (∀ v, i ≠ .cmdRsvd v) → readWindow t a = readWindow s a)

/-- Who writes the result buffers (10_state.md §6): only `FINISH`, INIT and reset. -/
def Obligations.ResultBufferWriters : Prop :=
  ∀ s t : State, step s = .next t → (t.dgst ≠ s.dgst ∨ t.hex ≠ s.hex) →
    whoseTurn s = .reset ∨ (whoseTurn s = .engine ∧ s.mstep = .finish) ∨
    ∃ r, whoseTurn s = .host r ∧ fetch r = .ok .init ∧ s.busy = false

/-! ### The logical functions and the constants -/

/-- R60, R61: bit i of `ROTR(x, n)` is bit (i + n) mod 64 of x; `SHR(x, n)` brings zeros in. -/
def Obligations.RotateAndShiftBits : Prop :=
  (∀ (x : Word) (n i : Nat), 1 ≤ n → n ≤ 63 → i < 64 →
    (rotr x n).getLsbD i = x.getLsbD ((i + n) % 64) ∧
    (shr x n).getLsbD i = (decide (i + n < 64) && x.getLsbD (i + n))) ∧
  rotr 0x0123456789abcdef 8 = 0xef0123456789abcd ∧ rotr 1 63 = 2 ∧
  shr 0x0123456789abcdef 7 = 0x0002468acf13579b

/-- R62, R63: each bit of x chooses the bit of y or of z; each bit is the majority of the three. -/
def Obligations.ChooseAndMajority : Prop :=
  (∀ (x y z : Word) (i : Nat), i < 64 →
    (ch x y z).getLsbD i = (if x.getLsbD i then y.getLsbD i else z.getLsbD i) ∧
    (maj x y z).getLsbD i =
      decide (2 ≤ (x.getLsbD i).toNat + (y.getLsbD i).toNat + (z.getLsbD i).toNat)) ∧
  (∀ y z : Word, ch 0 y z = z ∧ ch (~~~0) y z = y) ∧ (∀ x z : Word, maj x x z = x)

/-- R64, R65, R66, R67: the four sigma functions, bit by bit, with the rotation and shift amounts of the
rules. -/
def Obligations.SigmaBits : Prop :=
  ∀ (x : Word) (i : Nat), i < 64 →
    (bigSigma0 x).getLsbD i =
      (x.getLsbD ((i + 28) % 64) ^^ x.getLsbD ((i + 34) % 64) ^^ x.getLsbD ((i + 39) % 64)) ∧
    (bigSigma1 x).getLsbD i =
      (x.getLsbD ((i + 14) % 64) ^^ x.getLsbD ((i + 18) % 64) ^^ x.getLsbD ((i + 41) % 64)) ∧
    (smallSigma0 x).getLsbD i =
      (x.getLsbD ((i + 1) % 64) ^^ x.getLsbD ((i + 8) % 64) ^^ x.getLsbD (i + 7)) ∧
    (smallSigma1 x).getLsbD i =
      (x.getLsbD ((i + 19) % 64) ^^ x.getLsbD ((i + 61) % 64) ^^ x.getLsbD (i + 6))

/-- R68, R69: `K[t] = floor(cbrt(p_t · 2^192)) mod 2^64` over the first 80 primes, and
`IV[i] = floor(sqrt(p_i · 2^128)) mod 2^64` over the first eight. -/
def Obligations.ConstantsAreRootsOfPrimes : Prop :=
  let primes := (List.range 410).filter fun p => decide p.Prime
  primes.length = 80 ∧
  (∀ t : Fin 80, ∃ r, r ^ 3 ≤ primes.getD t.val 0 * 2 ^ 192 ∧
    primes.getD t.val 0 * 2 ^ 192 < (r + 1) ^ 3 ∧ (roundConstants[t.val]).toNat = r % 2 ^ 64) ∧
  (∀ i : Fin 8, ∃ r, r ^ 2 ≤ primes.getD i.val 0 * 2 ^ 128 ∧
    primes.getD i.val 0 * 2 ^ 128 < (r + 1) ^ 2 ∧ (iv[i.val]).toNat = r % 2 ^ 64)

/-! ### The engine's micro-steps -/

/-- R71: `LOAD`. -/
def Obligations.LoadMicroStep : Prop :=
  ∀ s : State, s.mstep = .load →
    ∃ v : Vector Word 16,
      (∀ j : Fin 16, v[j.val] = be64 s.buf[8 * j.val] s.buf[8 * j.val + 1] s.buf[8 * j.val + 2]
        s.buf[8 * j.val + 3] s.buf[8 * j.val + 4] s.buf[8 * j.val + 5] s.buf[8 * j.val + 6]
        s.buf[8 * j.val + 7]) ∧
      microStep s = .next { s with w := v, wk := s.h, t := 0, mstep := .round }

/-- R72: `ROUND`. -/
def Obligations.RoundMicroStep : Prop :=
  ∀ (s : State) (ht : s.t.val < 80), s.mstep = .round →
    ∃ (w : Word) (v : Vector Word 16) (t' : Fin 81),
      (∀ _ : s.t.val < 16, w = s.w[s.t.val] ∧ v = s.w) ∧
      (16 ≤ s.t.val → ∀ (i2 i7 i15 i16 : Fin 16), i2.val = (s.t.val - 2) % 16 →
        i7.val = (s.t.val - 7) % 16 → i15.val = (s.t.val - 15) % 16 → i16.val = (s.t.val - 16) % 16 →
        w = smallSigma1 s.w[i2.val] + s.w[i7.val] + smallSigma0 s.w[i15.val] + s.w[i16.val] ∧
        ∀ i : Fin 16, v[i.val] = if i.val = s.t.val % 16 then w else s.w[i.val]) ∧
      t'.val = s.t.val + 1 ∧
      microStep s = .next { s with
        w := v
        wk :=
          let t1 := s.wk[7] + bigSigma1 s.wk[4] + ch s.wk[4] s.wk[5] s.wk[6] + roundConstants[s.t.val] + w
          let t2 := bigSigma0 s.wk[0] + maj s.wk[0] s.wk[1] s.wk[2]
          #v[t1 + t2, s.wk[0], s.wk[1], s.wk[2], s.wk[3] + t1, s.wk[4], s.wk[5], s.wk[6]]
        t := t'
        mstep := if s.t.val + 1 = 80 then .update else .round }

/-- R73: `UPDATE`, by `JOB`. -/
def Obligations.UpdateMicroStep : Prop :=
  ∀ s : State, s.mstep = .update →
    ∃ v : HashWords, (∀ i : Fin 8, v[i.val] = s.h[i.val] + s.wk[i.val]) ∧
      (s.job = .block →
        microStep s = .next { s with h := v, bufptr := 0, mstep := .load, busy := false }) ∧
      (s.job = .finalFirst → microStep s = .next { s with h := v, mstep := .pad2 }) ∧
      (s.job = .finalLast → microStep s = .next { s with h := v, mstep := .finish })

/-- R56: `PAD2`. -/
def Obligations.Pad2MicroStep : Prop :=
  ∀ s : State, s.mstep = .pad2 →
    ∃ b : Block,
      (∀ i : Fin 128, b[i.val] =
        if i.val < 112 then 0x00 else s.len.extractLsb' (120 - 8 * (i.val - 112)) 8) ∧
      microStep s = .next { s with buf := b, job := .finalLast, mstep := .load }

/-- R77, R80: `FINISH`. -/
def Obligations.FinishMicroStep : Prop :=
  ∀ s : State, s.mstep = .finish →
    ∃ (d : Vector Byte 64) (x : Vector Byte 128),
      (∀ (i j : Fin 8), d[8 * i.val + j.val] = (s.h[i.val]).extractLsb' (56 - 8 * j.val) 8) ∧
      (∀ i : Fin 64, x[2 * i.val] = hexchar (d[i.val].extractLsb' 4 4) ∧
        x[2 * i.val + 1] = hexchar (d[i.val].extractLsb' 0 4)) ∧
      microStep s = .next { s with
        dgst := d
        hex := x
        bufptr := 0
        phase := .done
        job := .block
        mstep := .load
        busy := false }

/-! ### The compression function -/

/-- R70: the message schedule, and the window that yields it: `LOAD` sets the window up for round 0; when
it holds before round t, the word round t takes from it is `W_t`, and it holds again before round
t + 1. -/
def Obligations.ScheduleFromTheWindow : Prop :=
  (∀ (b : Block) (j : Fin 16), scheduleWord b j.val = blockWord b j) ∧
  (∀ (b : Block) (t : Nat), 16 ≤ t → t ≤ 79 →
    scheduleWord b t = smallSigma1 (scheduleWord b (t - 2)) + scheduleWord b (t - 7) +
      smallSigma0 (scheduleWord b (t - 15)) + scheduleWord b (t - 16)) ∧
  (∀ b : Block, WindowHolds (Vector.ofFn fun j : Fin 16 => blockWord b j) b 0) ∧
  (∀ (win : Vector Word 16) (b : Block) (t : Nat), t < 80 → WindowHolds win b t →
    windowWord win t = scheduleWord b t ∧ WindowHolds (windowNext win t) b (t + 1)) ∧
  (∀ t : Nat, scheduleWord (Vector.replicate 128 0x00) t = 0)

/-- R74: the engine's `LOAD`, 80 `ROUND`s and `UPDATE` are the compression function read with the
schedule of the block: they leave `Compress(H, BUF)` in `H`. -/
def Obligations.EngineComputesCompress : Prop :=
  ∀ s : State, s.mstep = .load →
    ∃ t, microRun 82 s = .next t ∧ t.h = compress s.h s.buf ∧ t.buf = s.buf ∧ t.len = s.len

/-- A job ends after a fixed number of micro-steps (70_reset_and_hazards.md §3): 82 for BLOCK, 83 for
FINAL_LAST, 166 for FINAL_FIRST, with `BUSY = 1` until the last. -/
def Obligations.JobMicroStepCounts : Prop :=
  ∀ s : State, s.busy = true → s.mstep = .load →
    let n := match s.job with
      | .block => 82
      | .finalLast => 83
      | .finalFirst => 166
    (∀ k, k < n → ∃ t, microRun k s = .next t ∧ t.busy = true) ∧
    (∃ t, microRun n s = .next t ∧ t.busy = false ∧ t.mstep = .load)

/-! ### Messages -/

/-- R57, R58: the padded message is `M ‖ 0x80 ‖ 0x00^z ‖ BE128(8n)` with the smallest z that makes its
length a multiple of 128, and it has the number of blocks of R57, one at least. -/
def Obligations.PaddingShape : Prop :=
  ∀ m : List Byte,
    padMessage m = m ++ [0x80] ++ List.replicate (zeroCount m.length) 0x00 ++
      be128 (BitVec.ofNat 128 (8 * m.length)) ∧
    (m.length + 1 + zeroCount m.length + 16) % 128 = 0 ∧
    (∀ z, (m.length + 1 + z + 16) % 128 = 0 → zeroCount m.length ≤ z) ∧
    (padMessage m).length = 128 * blockCount m.length ∧ 1 ≤ blockCount m.length ∧
    blockCount m.length = m.length / 128 + if m.length % 128 ≤ 111 then 1 else 2

/-- INIT opens the empty message, whatever came before (43_host_interface.md §1). -/
def Obligations.InitOpensTheEmptyMessage : Prop :=
  ∀ s : State, s.busy = false → ∃ t, exec .init s = .next t ∧ Absorbing t []

/-- Absorbing a byte adds it to the message (40_padding.md §1): at once, or, when it fills the buffer,
after the 82 micro-steps of the BLOCK job it starts. -/
def Obligations.AbsorbExtendsTheMessage : Prop :=
  ∀ (s : State) (m : List Byte) (d : Byte), Absorbing s m → m.length < maxBytes →
    ∃ t, exec (.absorb d) s = .next t ∧
      if (m.length + 1) % 128 = 0 then
        t.busy = true ∧ ∃ u, microRun 82 t = .next u ∧ Absorbing u (m ++ [d])
      else Absorbing t (m ++ [d])

/-- R5: a message has at most 2^125 − 1 bytes; the byte that would make it longer raises
`LengthOverflow`, and no earlier one does. -/
def Obligations.LongestMessage : Prop :=
  8 * maxBytes = 2 ^ 128 - 8 ∧
  ∀ (s : State) (m : List Byte) (d : Byte), Absorbing s m →
    ∃ t, exec (.absorb d) s = .next t ∧ (t.phase = .error ↔ m.length = maxBytes) ∧
      (m.length = maxBytes → t.lenovf = true ∧ t.buf = s.buf ∧ t.bufptr = s.bufptr ∧ t.len = s.len)

/-- R75, R84: FINAL on the message `m` and the micro-steps of its job leave the digest of `m`, the
serialisation of `H^(N)`, in DGST and its hex string in HEX, with `PHASE = DONE` and `BUSY = 0`. -/
def Obligations.FinalProducesTheDigest : Prop :=
  ∀ (s : State) (m : List Byte), Absorbing s m →
    ∃ t u, exec .final s = .next t ∧ t.busy = true ∧ t.phase = .absorb ∧
      microRun (if m.length % 128 ≤ 111 then 83 else 166) t = .next u ∧
      u.busy = false ∧ u.phase = .done ∧
      u.h = hashBlocks (padMessage m) (blockCount m.length) ∧
      u.dgst = serialize u.h ∧ u.dgst = sha512 m ∧ u.hex = digestHex m

/-- The 64-byte digest of M and its 128 hexadecimal characters, computed by the transaction sequence of
`digestHex(M)` (43_host_interface.md §5): from any state of the invariant in which no job runs, whatever
the schedule, it returns the 128 characters in order, and leaves STATUS = 0x04 and the digest in DGST. -/
def Obligations.DigestHexSequence : Prop :=
  ∀ (s : State) (m : List Byte), Invariant s → m.length ≤ maxBytes → s.busy = false →
    true ∉ s.resetIn → s.pending = digestHexRequests m →
    ∃ k t, runSteps k s = .next t ∧ t.pending = [] ∧ t.busy = false ∧ statusByte t = 0x04 ∧
      t.dgst = sha512 m ∧ t.returned = s.returned ++ (digestHex m).toList

/-- R79, R80, R81: the codes of the hex characters; the high nibble of byte i gives character 2i and the low
nibble character 2i + 1; the encoding keeps the order, is injective and onto the 128-character strings over
`0`–`9`, `a`–`f`, and its inverse gives the digest back. -/
def Obligations.HexEncoding : Prop :=
  (∀ n : BitVec 4, (n.toNat ≤ 9 → (hexchar n).toNat = 0x30 + n.toNat) ∧
    (10 ≤ n.toNat → (hexchar n).toNat = 0x61 + (n.toNat - 10))) ∧
  (∀ (d : Vector Byte 64) (i : Fin 64),
    (hexEncode d)[2 * i.val] = hexchar (d[i.val].extractLsb' 4 4) ∧
    (hexEncode d)[2 * i.val + 1] = hexchar (d[i.val].extractLsb' 0 4)) ∧
  (∀ m n : BitVec 4, m.toNat < n.toNat ↔ (hexchar m).toNat < (hexchar n).toNat) ∧
  (∀ d : Vector Byte 64, hexDecode (hexEncode d) = d) ∧
  (∀ d e : Vector Byte 64, hexEncode d = hexEncode e → d = e) ∧
  (∀ x : Vector Byte 128,
    (∀ j : Fin 128, 0x30 ≤ x[j.val].toNat ∧ x[j.val].toNat ≤ 0x39 ∨
      0x61 ≤ x[j.val].toNat ∧ x[j.val].toNat ≤ 0x66) ↔ ∃ d, hexEncode d = x)

/-- Call isolation (43_host_interface.md §1, 42_finalization_hex.md §1): from two states in which no job
runs, whose hosts are about to do the same, beginning with INIT, on the same schedule (the model's,
assumption log 19), every run returns the same bytes and from INIT on shows the same STATUS, DGST and HEX:
nothing of what came before the INIT can be seen after it. -/
def Obligations.InitIsolatesMessages : Prop :=
  ∀ (s₁ s₂ : State) (rest : List Request) (k : Nat) (t₁ : State),
    s₁.busy = false → s₂.busy = false →
    s₁.pending = .wr 0x00 0x01 :: rest → s₂.pending = s₁.pending → s₂.holding = s₁.holding →
    s₂.returned = s₁.returned → s₂.resetIn = s₁.resetIn → s₂.tick = s₁.tick →
    runSteps (k + 1) s₁ = .next t₁ →
    ∃ t₂, runSteps (k + 1) s₂ = .next t₂ ∧ t₂.returned = t₁.returned ∧
      statusByte t₂ = statusByte t₁ ∧ t₂.dgst = t₁.dgst ∧ t₂.hex = t₁.hex

/-! ### Invariants -/

/-- The invariant of R26 and of the sequencer holds at reset. -/
def Obligations.InvariantAtReset : Prop := Invariant State.reset

/-- Every step keeps it. -/
def Obligations.StepKeepsInvariant : Prop :=
  ∀ s t : State, Invariant s → step s = .next t → Invariant t

/-- Under it no step faults: the two faults of the model lie outside every run. -/
def Obligations.NoFaultUnderInvariant : Prop :=
  ∀ (s : State) (f : Fault), Invariant s → step s ≠ .fault f

/-- Every step from a state of the invariant keeps the relation between the state and the message it is
hashing: each micro-step, each transaction and each reset. -/
def Obligations.StepKeepsTheMessage : Prop :=
  ∀ (s t : State) (m : List Byte), Invariant s → Hashing s m → step s = .next t →
    Hashing t (messageAfter s m)

/-- R26: its six items hold in every state reached from reset, whatever accesses are presented and
whenever reset is asserted; the message is that of the last INIT..FINAL sequence. -/
def Obligations.ReachableStates : Prop :=
  ∀ (accesses : List Request) (levels : List Bool) (k : Nat) (t : State) (m : List Byte),
    trackedRun k (State.powerUp accesses levels) [] = some (t, m) →
    (t.busy = false → t.bufptr.val ≤ 127 ∧ t.mstep = .load) ∧
    (t.len.toNat % 8 = 0 ∧
      (t.phase = .absorb → t.busy = false → t.len.toNat / 8 % 128 = t.bufptr.val)) ∧
    (t.lenovf = true ↔ t.phase = .error) ∧
    (t.busy = true → t.phase = .absorb) ∧
    (t.phase ≠ .done → t.dgst = Vector.replicate 64 0x00 ∧ t.hex = Vector.replicate 128 0x00) ∧
    (t.phase = .done → t.dgst = sha512 m ∧ t.hex = digestHex m)

/-! ### The platform -/

/-- R106: instances share nothing: a step of one instance, and an access to it, leave every other
instance as it is, and what the one does depends on its own state alone. -/
def Obligations.InstancesAreIndependent : Prop :=
  (∀ (units units' : List State) (i j : Nat), i ≠ j → stepUnit units i = .next units' →
    units'[j]? = units[j]?) ∧
  (∀ (units : List State) (i : Nat) (s t : State), units[i]? = some s → step s = .next t →
    stepUnit units i = .next (units.set i t)) ∧
  (∀ (p : Platform) (units units' : List State) (x : HostAccess) (i offset j : Nat),
    route p x.address = some (i, offset) → i ≠ j → submit p units x = .next units' →
    units'[j]? = units[j]?)

/-- R27, R29: a one-byte access to an address of instance i's window, on a platform whose windows do not
overlap (the model's assumption, log 11), reaches instance i at that offset, and an access of another
width or outside every window is refused. -/
def Obligations.AccessesReachTheirWindow : Prop :=
  ∀ (p : Platform) (units : List State) (x : HostAccess), p.wf = true → units.length = p.nInst →
    (∀ (i base : Nat) (s : State) (b : Byte), p.bases[i]? = some base → base ≤ x.address →
      x.address < base + 256 → x.lanes = [b] → units[i]? = some s →
      submit p units x = .next (units.set i { s with
        pending := s.pending ++ [⟨x.write, x.address - base, [b]⟩] })) ∧
    (x.lanes.length ≠ 1 → submit p units x = .refused .notOneByte) ∧
    (x.lanes.length = 1 → (∀ base ∈ p.bases, x.address < base ∨ base + 256 ≤ x.address) →
      submit p units x = .refused .outsideWindow)
end

