-- ==== Sys2Proof/Laws/Arrays.lean ====
section
/-! SUPPORT. Reading one element of the arrays the machine builds: padded blocks, the padded message,
the digest and its hex string; and the count of `LEN`. -/

namespace Sys2Proof.Machine

/-! ### `LEN` -/

theorem maxLen_toNat : maxLen.toNat = 2 ^ 128 - 8 := by decide +kernel

theorem eq_maxLen_iff (x : LenCount) : x = maxLen ↔ x.toNat = 2 ^ 128 - 8 := by
  rw [← BitVec.toNat_inj, maxLen_toNat]

/-- Below the maximum, counting a byte does not wrap. -/
theorem len_add_eight {x : LenCount} (h : x.toNat + 8 < 2 ^ 128) : (x + 8).toNat = x.toNat + 8 := by
  rw [BitVec.toNat_add]
  simp
  omega

/-! ### Blocks -/

theorem getElem_padTerminator (b : Block) (p i : Nat) (h : i < 128) :
    (padTerminator b p)[i] = if i < p then b[i] else if i = p then 0x80 else 0x00 := by
  simp [padTerminator]

theorem getElem_putLength (b : Block) (i : Nat) (len : LenCount) (h : i < 128) :
    (putLength b len)[i] = if i < 112 then b[i] else lengthByte len (i - 112) := by
  simp [putLength]

theorem getElem_blockAt (bs : List Byte) (k i : Nat) (h : i < 128) :
    (blockAt bs k)[i] = bs.getD (128 * k + i) 0x00 := by
  simp [blockAt]

/-! ### Results -/

theorem getElem_serialize (h : HashWords) (n : Nat) (hn : n < 64) :
    (serialize h)[n] = wordByte (h[n / 8]) (n % 8) := by
  simp [serialize]

theorem getElem_hexEncode (d : Vector Byte 64) (n : Nat) (hn : n < 128) :
    (hexEncode d)[n] = hexOfByte (d[n / 2]) (n % 2 == 1) := by
  simp [hexEncode]

/-- A read of the window sees the result buffers and, at offset 0x01, STATUS, and nothing else. -/
theorem readWindow_congr {s t : State} (h1 : t.dgst = s.dgst) (h2 : t.hex = s.hex) (a : Byte)
    (h : a ≠ 0x01 ∨ statusByte t = statusByte s) : readWindow t a = readWindow s a := by
  unfold readWindow readDgst readHex
  rw [h1, h2]
  split
  · rcases h with h | h
    · contradiction
    · exact h
  · rfl

/-! ### The padded message -/

theorem length_be128 (len : LenCount) : (be128 len).length = 16 := by simp [be128]

theorem length_scheduleWords (b : Block) (n : Nat) : (scheduleWords b n).length = 16 + n := by
  induction n with
  | zero => simp [scheduleWords]
  | succ n ih =>
    simp [scheduleWords, ih]
    omega

theorem padMessage_message (m : List Byte) (j : Nat) (h : j < m.length) :
    (padMessage m).getD j 0 = m.getD j 0 := by
  unfold padMessage
  rw [List.getD_append _ _ _ _ h]

theorem padMessage_terminator (m : List Byte) : (padMessage m).getD m.length 0 = 0x80 := by
  unfold padMessage
  rw [List.getD_append_right _ _ _ _ (le_refl _)]
  simp

theorem padMessage_zero (m : List Byte) (j : Nat) (h : m.length < j)
    (h2 : j < m.length + 1 + zeroCount m.length) : (padMessage m).getD j 0 = 0 := by
  unfold padMessage
  rw [List.getD_append_right _ _ _ _ (by omega)]
  obtain ⟨i, hi⟩ : ∃ i, j - m.length = i + 1 := ⟨j - m.length - 1, by omega⟩
  rw [hi, List.getD_cons_succ, List.getD_append _ _ _ _ (by simp; omega),
    List.getD_eq_getElem _ _ (by simp; omega)]
  simp

theorem padMessage_length (m : List Byte) (k : Nat) (h : k < 16) :
    (padMessage m).getD (m.length + 1 + zeroCount m.length + k) 0 =
      lengthByte (BitVec.ofNat 128 (8 * m.length)) k := by
  unfold padMessage
  rw [List.getD_append_right _ _ _ _ (by omega),
    show m.length + 1 + zeroCount m.length + k - m.length = (zeroCount m.length + k) + 1 by omega,
    List.getD_cons_succ, List.getD_append_right _ _ _ _ (by simp)]
  simp only [List.length_replicate, Nat.add_sub_cancel_left]
  rw [List.getD_eq_getElem _ _ (by rw [length_be128]; omega)]
  simp [be128]

/-- The full blocks of the message are those of the padded message. -/
theorem blockAt_padMessage (m : List Byte) (k : Nat) (h : 128 * k + 128 ≤ m.length) :
    blockAt (padMessage m) k = blockAt m k := by
  apply Vector.ext
  intro i hi
  rw [getElem_blockAt _ _ _ hi, getElem_blockAt _ _ _ hi, padMessage_message _ _ (by omega)]

/-- `H^(k)` depends on the first k blocks alone. -/
theorem hashBlocks_congr {a b : List Byte} {k : Nat} (h : ∀ j, j < k → blockAt a j = blockAt b j) :
    hashBlocks a k = hashBlocks b k := by
  induction k with
  | zero => rfl
  | succ k ih =>
    unfold hashBlocks
    rw [ih fun j hj => h j (by omega), h k (by omega)]

theorem hashBlocks_padMessage (m : List Byte) (k : Nat) (h : 128 * k ≤ m.length) :
    hashBlocks (padMessage m) k = hashBlocks m k :=
  hashBlocks_congr fun j _ => blockAt_padMessage m j (by omega)

theorem hashBlocks_append (m : List Byte) (d : Byte) (k : Nat) (h : 128 * k ≤ m.length) :
    hashBlocks (m ++ [d]) k = hashBlocks m k := by
  apply hashBlocks_congr
  intro j hj
  apply Vector.ext
  intro i hi
  rw [getElem_blockAt _ _ _ hi, getElem_blockAt _ _ _ hi, List.getD_append _ _ _ _ (by omega)]

end Sys2Proof.Machine
end

