-- ==== Sys2Proof/Laws/Decode.lean ====
section
/-! SUPPORT. The fields of a transaction word, and decoding and fetching a word given by its fields. -/

namespace Sys2Proof

/-! ### The fields -/

/-- Bit i of a word, from its fields. -/
theorem mkTxnWord_getLsbD (r : Bool) (a d : Byte) (i : Nat) :
    (mkTxnWord r a d).getLsbD i =
      if i < 8 then d.getLsbD i else if i < 16 then a.getLsbD (i - 8) else (decide (i = 16) && r) := by
  show BitVec.getLsbD (w := 1 + (8 + 8)) (BitVec.ofBool r ++ (a ++ d)) i = _
  rw [BitVec.getLsbD_append, BitVec.getLsbD_append]
  by_cases h1 : i < 8
  · simp [h1]; omega
  · by_cases h2 : i < 16
    · simp [h1, h2]
    · simp only [show 8 + 8 = 16 from rfl, h1, h2, ↓reduceIte]
      cases r <;> simp
      omega

@[simp] theorem mkTxnWord_rw (r : Bool) (a d : Byte) : (mkTxnWord r a d).rw = r := by
  unfold TxnWord.rw
  rw [mkTxnWord_getLsbD]
  simp

@[simp] theorem mkTxnWord_addr (r : Bool) (a d : Byte) : (mkTxnWord r a d).addr = a := by
  unfold TxnWord.addr
  apply BitVec.eq_of_getLsbD_eq
  intro i hi
  rw [BitVec.getLsbD_extractLsb', mkTxnWord_getLsbD]
  have h1 : ¬ (8 + i < 8) := by omega
  have h2 : 8 + i < 16 := by omega
  simp [h1, h2, hi]

@[simp] theorem mkTxnWord_data (r : Bool) (a d : Byte) : (mkTxnWord r a d).data = d := by
  unfold TxnWord.data
  apply BitVec.eq_of_getLsbD_eq
  intro i hi
  rw [BitVec.getLsbD_extractLsb', mkTxnWord_getLsbD]
  simp [hi]

/-- A word is made of its fields. -/
theorem mkTxnWord_fields (w : TxnWord) : mkTxnWord w.rw w.addr w.data = w := by
  apply BitVec.eq_of_getLsbD_eq
  intro i hi
  rw [mkTxnWord_getLsbD]
  unfold TxnWord.rw TxnWord.addr TxnWord.data
  rw [BitVec.getLsbD_extractLsb', BitVec.getLsbD_extractLsb']
  split
  · simp_all
  · split
    · rw [show 8 + (i - 8) = i by omega]
      simp
      omega
    · obtain rfl : i = 16 := by omega
      simp

/-- Masking a word is masking its fields. -/
theorem mkTxnWord_and (r : Bool) (a d : Byte) (w : TxnWord) :
    (mkTxnWord r a d &&& w) = mkTxnWord (r && w.rw) (a &&& w.addr) (d &&& w.data) := by
  apply BitVec.eq_of_getLsbD_eq
  intro i hi
  rw [BitVec.getLsbD_and, mkTxnWord_getLsbD, mkTxnWord_getLsbD]
  unfold TxnWord.rw TxnWord.addr TxnWord.data
  split
  · rename_i h
    simp [h]
  · split
    · have h : i - 8 < 8 := by omega
      rw [BitVec.getLsbD_and, BitVec.getLsbD_extractLsb', show 8 + (i - 8) = i by omega]
      simp [h]
    · obtain rfl : i = 16 := by omega
      simp

/-! ### Decoding by fields -/

theorem decodeWord_write (a d : Byte) : decodeWord (mkTxnWord true a d) = decodeWrite a d := by
  simp [decodeWord]

theorem decodeWord_read (a d : Byte) : decodeWord (mkTxnWord false a d) = decodeRead a := by
  simp [decodeWord]

/-- The decoder reads the bytes of a word as that word. -/
theorem decode_wordBytes (w : TxnWord) : decode (wordBytes w) = .ok (decodeWord w) := by
  conv => rhs; rw [← mkTxnWord_fields w]
  unfold wordBytes decode
  cases w.rw <;> simp

/-- Bytes with different values are different, for the comparisons of the decoder. -/
theorem byte_ne_of_toNat_ne {a b : Byte} (h : a.toNat ≠ b.toNat) : a ≠ b := fun e => h (by rw [e])

/-- The offsets of the digest window, `ADDR = 01 ‖ i` (30_encoding.md R43). -/
theorem dgst_offset : ∀ i : BitVec 6, (0b01#2 ++ i : BitVec 8) ≠ 1 ∧ ¬ (0b01#2 ++ i : BitVec 8).toNat < 64 ∧
    (0b01#2 ++ i : BitVec 8).toNat < 128 ∧ (0b01#2 ++ i : BitVec 8).extractLsb' 0 6 = i := by
  decide +kernel

/-- The offsets of the hex window, `ADDR = 1 ‖ j` (30_encoding.md R43). -/
theorem hex_offset : ∀ j : BitVec 7, (0b1#1 ++ j : BitVec 8) ≠ 1 ∧ ¬ (0b1#1 ++ j : BitVec 8).toNat < 64 ∧
    ¬ (0b1#1 ++ j : BitVec 8).toNat < 128 ∧ (0b1#1 ++ j : BitVec 8).extractLsb' 0 7 = j := by
  decide +kernel

end Sys2Proof

namespace Sys2Proof.Machine

/-! ### Fetching -/

/-- A one-byte access inside the window is the transaction of its word. -/
theorem fetch_oneByte {write : Bool} {offset : Nat} {d : Byte} (h : offset < 256) :
    fetch ⟨write, offset, [d]⟩ = .ok (decodeWord (mkTxnWord write (BitVec.ofNat 8 offset) d)) := by
  unfold fetch fetchBytes
  simp [decode_wordBytes, h]

/-- `WR a, d` is the write it says. -/
theorem fetch_wr (a d : Byte) : fetch (.wr a d) = .ok (decodeWrite a d) := by
  unfold Request.wr
  rw [fetch_oneByte a.isLt]
  simp [decodeWord_write]

/-- `RD a` is the read it says. -/
theorem fetch_rd (a : Byte) : fetch (.rd a) = .ok (decodeRead a) := by
  unfold Request.rd
  rw [fetch_oneByte a.isLt]
  simp [decodeWord_read]

end Sys2Proof.Machine
end

