-- ==== Sys2Proof/Laws/State.lean ====
section
/-! SUPPORT. What each named update of the state does to each field: one lemma a field, true by
definition, so that no later proof unfolds a record update. -/

namespace Sys2Proof.Machine

/-! ### `retire` -/

@[simp] theorem State.retire_h (s : State) : s.retire.h = s.h := rfl
@[simp] theorem State.retire_buf (s : State) : s.retire.buf = s.buf := rfl
@[simp] theorem State.retire_bufptr (s : State) : s.retire.bufptr = s.bufptr := rfl
@[simp] theorem State.retire_len (s : State) : s.retire.len = s.len := rfl
@[simp] theorem State.retire_wk (s : State) : s.retire.wk = s.wk := rfl
@[simp] theorem State.retire_w (s : State) : s.retire.w = s.w := rfl
@[simp] theorem State.retire_t (s : State) : s.retire.t = s.t := rfl
@[simp] theorem State.retire_mstep (s : State) : s.retire.mstep = s.mstep := rfl
@[simp] theorem State.retire_job (s : State) : s.retire.job = s.job := rfl
@[simp] theorem State.retire_busy (s : State) : s.retire.busy = s.busy := rfl
@[simp] theorem State.retire_phase (s : State) : s.retire.phase = s.phase := rfl
@[simp] theorem State.retire_lenovf (s : State) : s.retire.lenovf = s.lenovf := rfl
@[simp] theorem State.retire_seqerr (s : State) : s.retire.seqerr = s.seqerr := rfl
@[simp] theorem State.retire_cmderr (s : State) : s.retire.cmderr = s.cmderr := rfl
@[simp] theorem State.retire_dgst (s : State) : s.retire.dgst = s.dgst := rfl
@[simp] theorem State.retire_hex (s : State) : s.retire.hex = s.hex := rfl
@[simp] theorem State.retire_pending (s : State) : s.retire.pending = s.pending.tail := rfl
@[simp] theorem State.retire_holding (s : State) : s.retire.holding = false := rfl
@[simp] theorem State.retire_returned (s : State) : s.retire.returned = s.returned := rfl
@[simp] theorem State.retire_resetIn (s : State) : s.retire.resetIn = s.resetIn := rfl
@[simp] theorem State.retire_slack (s : State) : s.retire.slack = s.slack := rfl
@[simp] theorem State.retire_tick (s : State) : s.retire.tick = s.tick := rfl

/-! ### `hold` -/

@[simp] theorem State.hold_h (s : State) : s.hold.h = s.h := rfl
@[simp] theorem State.hold_buf (s : State) : s.hold.buf = s.buf := rfl
@[simp] theorem State.hold_bufptr (s : State) : s.hold.bufptr = s.bufptr := rfl
@[simp] theorem State.hold_len (s : State) : s.hold.len = s.len := rfl
@[simp] theorem State.hold_wk (s : State) : s.hold.wk = s.wk := rfl
@[simp] theorem State.hold_w (s : State) : s.hold.w = s.w := rfl
@[simp] theorem State.hold_t (s : State) : s.hold.t = s.t := rfl
@[simp] theorem State.hold_mstep (s : State) : s.hold.mstep = s.mstep := rfl
@[simp] theorem State.hold_job (s : State) : s.hold.job = s.job := rfl
@[simp] theorem State.hold_busy (s : State) : s.hold.busy = s.busy := rfl
@[simp] theorem State.hold_phase (s : State) : s.hold.phase = s.phase := rfl
@[simp] theorem State.hold_lenovf (s : State) : s.hold.lenovf = s.lenovf := rfl
@[simp] theorem State.hold_seqerr (s : State) : s.hold.seqerr = s.seqerr := rfl
@[simp] theorem State.hold_cmderr (s : State) : s.hold.cmderr = s.cmderr := rfl
@[simp] theorem State.hold_dgst (s : State) : s.hold.dgst = s.dgst := rfl
@[simp] theorem State.hold_hex (s : State) : s.hold.hex = s.hex := rfl
@[simp] theorem State.hold_pending (s : State) : s.hold.pending = s.pending := rfl
@[simp] theorem State.hold_holding (s : State) : s.hold.holding = true := rfl
@[simp] theorem State.hold_returned (s : State) : s.hold.returned = s.returned := rfl
@[simp] theorem State.hold_resetIn (s : State) : s.hold.resetIn = s.resetIn := rfl
@[simp] theorem State.hold_slack (s : State) : s.hold.slack = s.slack := rfl
@[simp] theorem State.hold_tick (s : State) : s.hold.tick = s.tick := rfl

/-! ### `respond` -/

@[simp] theorem State.respond_h (s : State) (b : Byte) : (s.respond b).h = s.h := rfl
@[simp] theorem State.respond_buf (s : State) (b : Byte) : (s.respond b).buf = s.buf := rfl
@[simp] theorem State.respond_bufptr (s : State) (b : Byte) : (s.respond b).bufptr = s.bufptr := rfl
@[simp] theorem State.respond_len (s : State) (b : Byte) : (s.respond b).len = s.len := rfl
@[simp] theorem State.respond_wk (s : State) (b : Byte) : (s.respond b).wk = s.wk := rfl
@[simp] theorem State.respond_w (s : State) (b : Byte) : (s.respond b).w = s.w := rfl
@[simp] theorem State.respond_t (s : State) (b : Byte) : (s.respond b).t = s.t := rfl
@[simp] theorem State.respond_mstep (s : State) (b : Byte) : (s.respond b).mstep = s.mstep := rfl
@[simp] theorem State.respond_job (s : State) (b : Byte) : (s.respond b).job = s.job := rfl
@[simp] theorem State.respond_busy (s : State) (b : Byte) : (s.respond b).busy = s.busy := rfl
@[simp] theorem State.respond_phase (s : State) (b : Byte) : (s.respond b).phase = s.phase := rfl
@[simp] theorem State.respond_lenovf (s : State) (b : Byte) : (s.respond b).lenovf = s.lenovf := rfl
@[simp] theorem State.respond_seqerr (s : State) (b : Byte) : (s.respond b).seqerr = s.seqerr := rfl
@[simp] theorem State.respond_cmderr (s : State) (b : Byte) : (s.respond b).cmderr = s.cmderr := rfl
@[simp] theorem State.respond_dgst (s : State) (b : Byte) : (s.respond b).dgst = s.dgst := rfl
@[simp] theorem State.respond_hex (s : State) (b : Byte) : (s.respond b).hex = s.hex := rfl
@[simp] theorem State.respond_pending (s : State) (b : Byte) : (s.respond b).pending = s.pending.tail := rfl
@[simp] theorem State.respond_holding (s : State) (b : Byte) : (s.respond b).holding = false := rfl
@[simp] theorem State.respond_returned (s : State) (b : Byte) : (s.respond b).returned = s.returned ++ [b] := rfl
@[simp] theorem State.respond_resetIn (s : State) (b : Byte) : (s.respond b).resetIn = s.resetIn := rfl
@[simp] theorem State.respond_slack (s : State) (b : Byte) : (s.respond b).slack = s.slack := rfl
@[simp] theorem State.respond_tick (s : State) (b : Byte) : (s.respond b).tick = s.tick := rfl

/-! ### `clearErrors` -/

@[simp] theorem State.clearErrors_h (s : State) : s.clearErrors.h = s.h := rfl
@[simp] theorem State.clearErrors_buf (s : State) : s.clearErrors.buf = s.buf := rfl
@[simp] theorem State.clearErrors_bufptr (s : State) : s.clearErrors.bufptr = s.bufptr := rfl
@[simp] theorem State.clearErrors_len (s : State) : s.clearErrors.len = s.len := rfl
@[simp] theorem State.clearErrors_wk (s : State) : s.clearErrors.wk = s.wk := rfl
@[simp] theorem State.clearErrors_w (s : State) : s.clearErrors.w = s.w := rfl
@[simp] theorem State.clearErrors_t (s : State) : s.clearErrors.t = s.t := rfl
@[simp] theorem State.clearErrors_mstep (s : State) : s.clearErrors.mstep = s.mstep := rfl
@[simp] theorem State.clearErrors_job (s : State) : s.clearErrors.job = s.job := rfl
@[simp] theorem State.clearErrors_busy (s : State) : s.clearErrors.busy = s.busy := rfl
@[simp] theorem State.clearErrors_phase (s : State) : s.clearErrors.phase = s.phase := rfl
@[simp] theorem State.clearErrors_lenovf (s : State) : s.clearErrors.lenovf = false := rfl
@[simp] theorem State.clearErrors_seqerr (s : State) : s.clearErrors.seqerr = false := rfl
@[simp] theorem State.clearErrors_cmderr (s : State) : s.clearErrors.cmderr = false := rfl
@[simp] theorem State.clearErrors_dgst (s : State) : s.clearErrors.dgst = s.dgst := rfl
@[simp] theorem State.clearErrors_hex (s : State) : s.clearErrors.hex = s.hex := rfl
@[simp] theorem State.clearErrors_pending (s : State) : s.clearErrors.pending = s.pending := rfl
@[simp] theorem State.clearErrors_holding (s : State) : s.clearErrors.holding = s.holding := rfl
@[simp] theorem State.clearErrors_returned (s : State) : s.clearErrors.returned = s.returned := rfl
@[simp] theorem State.clearErrors_resetIn (s : State) : s.clearErrors.resetIn = s.resetIn := rfl
@[simp] theorem State.clearErrors_slack (s : State) : s.clearErrors.slack = s.slack := rfl
@[simp] theorem State.clearErrors_tick (s : State) : s.clearErrors.tick = s.tick := rfl

/-! ### `drawSlack` -/

@[simp] theorem State.drawSlack_h (s : State) : s.drawSlack.h = s.h := rfl
@[simp] theorem State.drawSlack_buf (s : State) : s.drawSlack.buf = s.buf := rfl
@[simp] theorem State.drawSlack_bufptr (s : State) : s.drawSlack.bufptr = s.bufptr := rfl
@[simp] theorem State.drawSlack_len (s : State) : s.drawSlack.len = s.len := rfl
@[simp] theorem State.drawSlack_wk (s : State) : s.drawSlack.wk = s.wk := rfl
@[simp] theorem State.drawSlack_w (s : State) : s.drawSlack.w = s.w := rfl
@[simp] theorem State.drawSlack_t (s : State) : s.drawSlack.t = s.t := rfl
@[simp] theorem State.drawSlack_mstep (s : State) : s.drawSlack.mstep = s.mstep := rfl
@[simp] theorem State.drawSlack_job (s : State) : s.drawSlack.job = s.job := rfl
@[simp] theorem State.drawSlack_busy (s : State) : s.drawSlack.busy = s.busy := rfl
@[simp] theorem State.drawSlack_phase (s : State) : s.drawSlack.phase = s.phase := rfl
@[simp] theorem State.drawSlack_lenovf (s : State) : s.drawSlack.lenovf = s.lenovf := rfl
@[simp] theorem State.drawSlack_seqerr (s : State) : s.drawSlack.seqerr = s.seqerr := rfl
@[simp] theorem State.drawSlack_cmderr (s : State) : s.drawSlack.cmderr = s.cmderr := rfl
@[simp] theorem State.drawSlack_dgst (s : State) : s.drawSlack.dgst = s.dgst := rfl
@[simp] theorem State.drawSlack_hex (s : State) : s.drawSlack.hex = s.hex := rfl
@[simp] theorem State.drawSlack_pending (s : State) : s.drawSlack.pending = s.pending := rfl
@[simp] theorem State.drawSlack_holding (s : State) : s.drawSlack.holding = s.holding := rfl
@[simp] theorem State.drawSlack_returned (s : State) : s.drawSlack.returned = s.returned := rfl
@[simp] theorem State.drawSlack_resetIn (s : State) : s.drawSlack.resetIn = s.resetIn := rfl
@[simp] theorem State.drawSlack_slack (s : State) : s.drawSlack.slack = Config.hostTurnsBefore s.tick := rfl
@[simp] theorem State.drawSlack_tick (s : State) : s.drawSlack.tick = s.tick + 1 := rfl

/-! ### `startJob` -/

@[simp] theorem State.startJob_h (s : State) (j : Job) : (s.startJob j).h = s.h := rfl
@[simp] theorem State.startJob_buf (s : State) (j : Job) : (s.startJob j).buf = s.buf := rfl
@[simp] theorem State.startJob_bufptr (s : State) (j : Job) : (s.startJob j).bufptr = s.bufptr := rfl
@[simp] theorem State.startJob_len (s : State) (j : Job) : (s.startJob j).len = s.len := rfl
@[simp] theorem State.startJob_wk (s : State) (j : Job) : (s.startJob j).wk = s.wk := rfl
@[simp] theorem State.startJob_w (s : State) (j : Job) : (s.startJob j).w = s.w := rfl
@[simp] theorem State.startJob_t (s : State) (j : Job) : (s.startJob j).t = s.t := rfl
@[simp] theorem State.startJob_mstep (s : State) (j : Job) : (s.startJob j).mstep = .load := rfl
@[simp] theorem State.startJob_job (s : State) (j : Job) : (s.startJob j).job = j := rfl
@[simp] theorem State.startJob_busy (s : State) (j : Job) : (s.startJob j).busy = true := rfl
@[simp] theorem State.startJob_phase (s : State) (j : Job) : (s.startJob j).phase = s.phase := rfl
@[simp] theorem State.startJob_lenovf (s : State) (j : Job) : (s.startJob j).lenovf = s.lenovf := rfl
@[simp] theorem State.startJob_seqerr (s : State) (j : Job) : (s.startJob j).seqerr = s.seqerr := rfl
@[simp] theorem State.startJob_cmderr (s : State) (j : Job) : (s.startJob j).cmderr = s.cmderr := rfl
@[simp] theorem State.startJob_dgst (s : State) (j : Job) : (s.startJob j).dgst = s.dgst := rfl
@[simp] theorem State.startJob_hex (s : State) (j : Job) : (s.startJob j).hex = s.hex := rfl
@[simp] theorem State.startJob_pending (s : State) (j : Job) : (s.startJob j).pending = s.pending := rfl
@[simp] theorem State.startJob_holding (s : State) (j : Job) : (s.startJob j).holding = s.holding := rfl
@[simp] theorem State.startJob_returned (s : State) (j : Job) : (s.startJob j).returned = s.returned := rfl
@[simp] theorem State.startJob_resetIn (s : State) (j : Job) : (s.startJob j).resetIn = s.resetIn := rfl
@[simp] theorem State.startJob_slack (s : State) (j : Job) : (s.startJob j).slack = Config.hostTurnsBefore s.tick := rfl
@[simp] theorem State.startJob_tick (s : State) (j : Job) : (s.startJob j).tick = s.tick + 1 := rfl

/-! ### `useTurn` -/

@[simp] theorem State.useTurn_h (s : State) : s.useTurn.h = s.h := by
  unfold State.useTurn; split <;> rfl
@[simp] theorem State.useTurn_buf (s : State) : s.useTurn.buf = s.buf := by
  unfold State.useTurn; split <;> rfl
@[simp] theorem State.useTurn_bufptr (s : State) : s.useTurn.bufptr = s.bufptr := by
  unfold State.useTurn; split <;> rfl
@[simp] theorem State.useTurn_len (s : State) : s.useTurn.len = s.len := by
  unfold State.useTurn; split <;> rfl
@[simp] theorem State.useTurn_wk (s : State) : s.useTurn.wk = s.wk := by
  unfold State.useTurn; split <;> rfl
@[simp] theorem State.useTurn_w (s : State) : s.useTurn.w = s.w := by
  unfold State.useTurn; split <;> rfl
@[simp] theorem State.useTurn_t (s : State) : s.useTurn.t = s.t := by
  unfold State.useTurn; split <;> rfl
@[simp] theorem State.useTurn_mstep (s : State) : s.useTurn.mstep = s.mstep := by
  unfold State.useTurn; split <;> rfl
@[simp] theorem State.useTurn_job (s : State) : s.useTurn.job = s.job := by
  unfold State.useTurn; split <;> rfl
@[simp] theorem State.useTurn_busy (s : State) : s.useTurn.busy = s.busy := by
  unfold State.useTurn; split <;> rfl
@[simp] theorem State.useTurn_phase (s : State) : s.useTurn.phase = s.phase := by
  unfold State.useTurn; split <;> rfl
@[simp] theorem State.useTurn_lenovf (s : State) : s.useTurn.lenovf = s.lenovf := by
  unfold State.useTurn; split <;> rfl
@[simp] theorem State.useTurn_seqerr (s : State) : s.useTurn.seqerr = s.seqerr := by
  unfold State.useTurn; split <;> rfl
@[simp] theorem State.useTurn_cmderr (s : State) : s.useTurn.cmderr = s.cmderr := by
  unfold State.useTurn; split <;> rfl
@[simp] theorem State.useTurn_dgst (s : State) : s.useTurn.dgst = s.dgst := by
  unfold State.useTurn; split <;> rfl
@[simp] theorem State.useTurn_hex (s : State) : s.useTurn.hex = s.hex := by
  unfold State.useTurn; split <;> rfl
@[simp] theorem State.useTurn_pending (s : State) : s.useTurn.pending = s.pending := by
  unfold State.useTurn; split <;> rfl
@[simp] theorem State.useTurn_holding (s : State) : s.useTurn.holding = s.holding := by
  unfold State.useTurn; split <;> rfl
@[simp] theorem State.useTurn_returned (s : State) : s.useTurn.returned = s.returned := by
  unfold State.useTurn; split <;> rfl
@[simp] theorem State.useTurn_resetIn (s : State) : s.useTurn.resetIn = s.resetIn := by
  unfold State.useTurn; split <;> rfl
@[simp] theorem State.useTurn_slack (s : State) : s.useTurn.slack = if s.busy then s.slack - 1 else s.slack := by
  unfold State.useTurn; split <;> rfl
@[simp] theorem State.useTurn_tick (s : State) : s.useTurn.tick = s.tick := by
  unfold State.useTurn; split <;> rfl

/-! ### `passReset` -/

@[simp] theorem State.passReset_h (s : State) : s.passReset.h = s.h := rfl
@[simp] theorem State.passReset_buf (s : State) : s.passReset.buf = s.buf := rfl
@[simp] theorem State.passReset_bufptr (s : State) : s.passReset.bufptr = s.bufptr := rfl
@[simp] theorem State.passReset_len (s : State) : s.passReset.len = s.len := rfl
@[simp] theorem State.passReset_wk (s : State) : s.passReset.wk = s.wk := rfl
@[simp] theorem State.passReset_w (s : State) : s.passReset.w = s.w := rfl
@[simp] theorem State.passReset_t (s : State) : s.passReset.t = s.t := rfl
@[simp] theorem State.passReset_mstep (s : State) : s.passReset.mstep = s.mstep := rfl
@[simp] theorem State.passReset_job (s : State) : s.passReset.job = s.job := rfl
@[simp] theorem State.passReset_busy (s : State) : s.passReset.busy = s.busy := rfl
@[simp] theorem State.passReset_phase (s : State) : s.passReset.phase = s.phase := rfl
@[simp] theorem State.passReset_lenovf (s : State) : s.passReset.lenovf = s.lenovf := rfl
@[simp] theorem State.passReset_seqerr (s : State) : s.passReset.seqerr = s.seqerr := rfl
@[simp] theorem State.passReset_cmderr (s : State) : s.passReset.cmderr = s.cmderr := rfl
@[simp] theorem State.passReset_dgst (s : State) : s.passReset.dgst = s.dgst := rfl
@[simp] theorem State.passReset_hex (s : State) : s.passReset.hex = s.hex := rfl
@[simp] theorem State.passReset_pending (s : State) : s.passReset.pending = s.pending := rfl
@[simp] theorem State.passReset_holding (s : State) : s.passReset.holding = s.holding := rfl
@[simp] theorem State.passReset_returned (s : State) : s.passReset.returned = s.returned := rfl
@[simp] theorem State.passReset_resetIn (s : State) : s.passReset.resetIn = s.resetIn.tail := rfl
@[simp] theorem State.passReset_slack (s : State) : s.passReset.slack = s.slack := rfl
@[simp] theorem State.passReset_tick (s : State) : s.passReset.tick = s.tick := rfl

/-! ### `openMessage` -/

@[simp] theorem State.openMessage_h (s : State) : s.openMessage.h = iv := rfl
@[simp] theorem State.openMessage_buf (s : State) : s.openMessage.buf = Vector.replicate 128 0x00 := rfl
@[simp] theorem State.openMessage_bufptr (s : State) : s.openMessage.bufptr = 0 := rfl
@[simp] theorem State.openMessage_len (s : State) : s.openMessage.len = 0 := rfl
@[simp] theorem State.openMessage_wk (s : State) : s.openMessage.wk = s.wk := rfl
@[simp] theorem State.openMessage_w (s : State) : s.openMessage.w = s.w := rfl
@[simp] theorem State.openMessage_t (s : State) : s.openMessage.t = s.t := rfl
@[simp] theorem State.openMessage_mstep (s : State) : s.openMessage.mstep = s.mstep := rfl
@[simp] theorem State.openMessage_job (s : State) : s.openMessage.job = s.job := rfl
@[simp] theorem State.openMessage_busy (s : State) : s.openMessage.busy = s.busy := rfl
@[simp] theorem State.openMessage_phase (s : State) : s.openMessage.phase = .absorb := rfl
@[simp] theorem State.openMessage_lenovf (s : State) : s.openMessage.lenovf = false := rfl
@[simp] theorem State.openMessage_seqerr (s : State) : s.openMessage.seqerr = false := rfl
@[simp] theorem State.openMessage_cmderr (s : State) : s.openMessage.cmderr = false := rfl
@[simp] theorem State.openMessage_dgst (s : State) : s.openMessage.dgst = Vector.replicate 64 0x00 := rfl
@[simp] theorem State.openMessage_hex (s : State) : s.openMessage.hex = Vector.replicate 128 0x00 := rfl
@[simp] theorem State.openMessage_pending (s : State) : s.openMessage.pending = s.pending := rfl
@[simp] theorem State.openMessage_holding (s : State) : s.openMessage.holding = s.holding := rfl
@[simp] theorem State.openMessage_returned (s : State) : s.openMessage.returned = s.returned := rfl
@[simp] theorem State.openMessage_resetIn (s : State) : s.openMessage.resetIn = s.resetIn := rfl
@[simp] theorem State.openMessage_slack (s : State) : s.openMessage.slack = s.slack := rfl
@[simp] theorem State.openMessage_tick (s : State) : s.openMessage.tick = s.tick := rfl

/-! ### `present` -/

@[simp] theorem State.present_h (s : State) (r : Request) : (s.present r).h = s.h := rfl
@[simp] theorem State.present_buf (s : State) (r : Request) : (s.present r).buf = s.buf := rfl
@[simp] theorem State.present_bufptr (s : State) (r : Request) : (s.present r).bufptr = s.bufptr := rfl
@[simp] theorem State.present_len (s : State) (r : Request) : (s.present r).len = s.len := rfl
@[simp] theorem State.present_wk (s : State) (r : Request) : (s.present r).wk = s.wk := rfl
@[simp] theorem State.present_w (s : State) (r : Request) : (s.present r).w = s.w := rfl
@[simp] theorem State.present_t (s : State) (r : Request) : (s.present r).t = s.t := rfl
@[simp] theorem State.present_mstep (s : State) (r : Request) : (s.present r).mstep = s.mstep := rfl
@[simp] theorem State.present_job (s : State) (r : Request) : (s.present r).job = s.job := rfl
@[simp] theorem State.present_busy (s : State) (r : Request) : (s.present r).busy = s.busy := rfl
@[simp] theorem State.present_phase (s : State) (r : Request) : (s.present r).phase = s.phase := rfl
@[simp] theorem State.present_lenovf (s : State) (r : Request) : (s.present r).lenovf = s.lenovf := rfl
@[simp] theorem State.present_seqerr (s : State) (r : Request) : (s.present r).seqerr = s.seqerr := rfl
@[simp] theorem State.present_cmderr (s : State) (r : Request) : (s.present r).cmderr = s.cmderr := rfl
@[simp] theorem State.present_dgst (s : State) (r : Request) : (s.present r).dgst = s.dgst := rfl
@[simp] theorem State.present_hex (s : State) (r : Request) : (s.present r).hex = s.hex := rfl
@[simp] theorem State.present_pending (s : State) (r : Request) : (s.present r).pending = r :: s.pending := rfl
@[simp] theorem State.present_holding (s : State) (r : Request) : (s.present r).holding = false := rfl
@[simp] theorem State.present_returned (s : State) (r : Request) : (s.present r).returned = s.returned := rfl
@[simp] theorem State.present_resetIn (s : State) (r : Request) : (s.present r).resetIn = [] := rfl
@[simp] theorem State.present_slack (s : State) (r : Request) : (s.present r).slack = if s.busy ∧ s.slack = 0 then 1 else s.slack := rfl
@[simp] theorem State.present_tick (s : State) (r : Request) : (s.present r).tick = s.tick := rfl

/-! ### `applyReset` -/

@[simp] theorem State.applyReset_h (s : State) : s.applyReset.h = Vector.replicate 8 0 := rfl
@[simp] theorem State.applyReset_buf (s : State) : s.applyReset.buf = Vector.replicate 128 0x00 := rfl
@[simp] theorem State.applyReset_bufptr (s : State) : s.applyReset.bufptr = 0 := rfl
@[simp] theorem State.applyReset_len (s : State) : s.applyReset.len = 0 := rfl
@[simp] theorem State.applyReset_wk (s : State) : s.applyReset.wk = Vector.replicate 8 0 := rfl
@[simp] theorem State.applyReset_w (s : State) : s.applyReset.w = Vector.replicate 16 0 := rfl
@[simp] theorem State.applyReset_t (s : State) : s.applyReset.t = 0 := rfl
@[simp] theorem State.applyReset_mstep (s : State) : s.applyReset.mstep = .load := rfl
@[simp] theorem State.applyReset_job (s : State) : s.applyReset.job = .block := rfl
@[simp] theorem State.applyReset_busy (s : State) : s.applyReset.busy = false := rfl
@[simp] theorem State.applyReset_phase (s : State) : s.applyReset.phase = .idle := rfl
@[simp] theorem State.applyReset_lenovf (s : State) : s.applyReset.lenovf = false := rfl
@[simp] theorem State.applyReset_seqerr (s : State) : s.applyReset.seqerr = false := rfl
@[simp] theorem State.applyReset_cmderr (s : State) : s.applyReset.cmderr = false := rfl
@[simp] theorem State.applyReset_dgst (s : State) : s.applyReset.dgst = Vector.replicate 64 0x00 := rfl
@[simp] theorem State.applyReset_hex (s : State) : s.applyReset.hex = Vector.replicate 128 0x00 := rfl
@[simp] theorem State.applyReset_pending (s : State) : s.applyReset.pending = if s.holding then s.pending.tail else s.pending := rfl
@[simp] theorem State.applyReset_holding (s : State) : s.applyReset.holding = false := rfl
@[simp] theorem State.applyReset_returned (s : State) : s.applyReset.returned = s.returned := rfl
@[simp] theorem State.applyReset_resetIn (s : State) : s.applyReset.resetIn = s.resetIn.tail := rfl
@[simp] theorem State.applyReset_slack (s : State) : s.applyReset.slack = 0 := rfl
@[simp] theorem State.applyReset_tick (s : State) : s.applyReset.tick = s.tick := rfl

/-! ### `raiseError` -/

@[simp] theorem State.raiseError_h (s : State) (e : ErrorCondition) : (s.raiseError e).h = s.h := by
  cases e <;> rfl
@[simp] theorem State.raiseError_buf (s : State) (e : ErrorCondition) : (s.raiseError e).buf = s.buf := by
  cases e <;> rfl
@[simp] theorem State.raiseError_bufptr (s : State) (e : ErrorCondition) : (s.raiseError e).bufptr = s.bufptr := by
  cases e <;> rfl
@[simp] theorem State.raiseError_len (s : State) (e : ErrorCondition) : (s.raiseError e).len = s.len := by
  cases e <;> rfl
@[simp] theorem State.raiseError_wk (s : State) (e : ErrorCondition) : (s.raiseError e).wk = s.wk := by
  cases e <;> rfl
@[simp] theorem State.raiseError_w (s : State) (e : ErrorCondition) : (s.raiseError e).w = s.w := by
  cases e <;> rfl
@[simp] theorem State.raiseError_t (s : State) (e : ErrorCondition) : (s.raiseError e).t = s.t := by
  cases e <;> rfl
@[simp] theorem State.raiseError_mstep (s : State) (e : ErrorCondition) : (s.raiseError e).mstep = s.mstep := by
  cases e <;> rfl
@[simp] theorem State.raiseError_job (s : State) (e : ErrorCondition) : (s.raiseError e).job = s.job := by
  cases e <;> rfl
@[simp] theorem State.raiseError_busy (s : State) (e : ErrorCondition) : (s.raiseError e).busy = s.busy := by
  cases e <;> rfl
@[simp] theorem State.raiseError_dgst (s : State) (e : ErrorCondition) : (s.raiseError e).dgst = s.dgst := by
  cases e <;> rfl
@[simp] theorem State.raiseError_hex (s : State) (e : ErrorCondition) : (s.raiseError e).hex = s.hex := by
  cases e <;> rfl
@[simp] theorem State.raiseError_pending (s : State) (e : ErrorCondition) : (s.raiseError e).pending = s.pending := by
  cases e <;> rfl
@[simp] theorem State.raiseError_holding (s : State) (e : ErrorCondition) : (s.raiseError e).holding = s.holding := by
  cases e <;> rfl
@[simp] theorem State.raiseError_returned (s : State) (e : ErrorCondition) : (s.raiseError e).returned = s.returned := by
  cases e <;> rfl
@[simp] theorem State.raiseError_resetIn (s : State) (e : ErrorCondition) : (s.raiseError e).resetIn = s.resetIn := by
  cases e <;> rfl
@[simp] theorem State.raiseError_slack (s : State) (e : ErrorCondition) : (s.raiseError e).slack = s.slack := by
  cases e <;> rfl
@[simp] theorem State.raiseError_tick (s : State) (e : ErrorCondition) : (s.raiseError e).tick = s.tick := by
  cases e <;> rfl

@[simp] theorem State.raiseError_lengthOverflow_phase (s : State) : (s.raiseError .lengthOverflow).phase = .error := rfl
@[simp] theorem State.raiseError_lengthOverflow_lenovf (s : State) : (s.raiseError .lengthOverflow).lenovf = true := rfl
@[simp] theorem State.raiseError_lengthOverflow_seqerr (s : State) : (s.raiseError .lengthOverflow).seqerr = s.seqerr := rfl
@[simp] theorem State.raiseError_lengthOverflow_cmderr (s : State) : (s.raiseError .lengthOverflow).cmderr = s.cmderr := rfl
@[simp] theorem State.raiseError_sequence_phase (s : State) : (s.raiseError .sequence).phase = s.phase := rfl
@[simp] theorem State.raiseError_sequence_lenovf (s : State) : (s.raiseError .sequence).lenovf = s.lenovf := rfl
@[simp] theorem State.raiseError_sequence_seqerr (s : State) : (s.raiseError .sequence).seqerr = true := rfl
@[simp] theorem State.raiseError_sequence_cmderr (s : State) : (s.raiseError .sequence).cmderr = s.cmderr := rfl
@[simp] theorem State.raiseError_illegalCommand_phase (s : State) : (s.raiseError .illegalCommand).phase = s.phase := rfl
@[simp] theorem State.raiseError_illegalCommand_lenovf (s : State) : (s.raiseError .illegalCommand).lenovf = s.lenovf := rfl
@[simp] theorem State.raiseError_illegalCommand_seqerr (s : State) : (s.raiseError .illegalCommand).seqerr = s.seqerr := rfl
@[simp] theorem State.raiseError_illegalCommand_cmderr (s : State) : (s.raiseError .illegalCommand).cmderr = true := rfl

end Sys2Proof.Machine
end

