-- ==== Sys2Proof/Laws/Engine.lean ====
section
/-! SUPPORT. The bits of `xor3`, what the engine's micro-steps leave alone and how the sequencer moves, and
runs of micro-steps. -/

namespace Sys2Proof.Machine

/-- The exclusive or of three words, bit by bit. -/
@[simp] theorem getLsbD_xor3 (u v w : Word) (i : Nat) :
    (xor3 u v w).getLsbD i = (u.getLsbD i ^^ v.getLsbD i ^^ w.getLsbD i) := by
  simp only [xor3, BitVec.getLsbD_xor]

/-- `UPDATE` of a BLOCK job. -/
theorem stepUpdate_block {s : State} (h : s.job = .block) :
    stepUpdate s = { s with h := addWords s.h s.wk, bufptr := 0, mstep := .load, busy := false } := by
  unfold stepUpdate
  simp only [h]

/-- `UPDATE` of a FINAL_FIRST job. -/
theorem stepUpdate_finalFirst {s : State} (h : s.job = .finalFirst) :
    stepUpdate s = { s with h := addWords s.h s.wk, mstep := .pad2 } := by
  unfold stepUpdate
  simp only [h]

/-- `UPDATE` of a FINAL_LAST job. -/
theorem stepUpdate_finalLast {s : State} (h : s.job = .finalLast) :
    stepUpdate s = { s with h := addWords s.h s.wk, mstep := .finish } := by
  unfold stepUpdate
  simp only [h]

/-- The engine touches neither the host's side, nor the schedule, nor `LEN`, nor an error flag. -/
theorem microStep_leaves {s t : State} (h : microStep s = .next t) :
    t.pending = s.pending ∧ t.holding = s.holding ∧ t.returned = s.returned ∧ t.resetIn = s.resetIn ∧
      t.slack = s.slack ∧ t.tick = s.tick ∧ t.len = s.len ∧ t.seqerr = s.seqerr ∧
      t.lenovf = s.lenovf ∧ t.cmderr = s.cmderr := by
  unfold microStep at h
  split at h
  · cases h
    simp [stepLoad]
  · unfold stepRound at h
    split at h <;> cases h
    simp
  · cases h
    unfold stepUpdate
    dsimp only
    split <;> simp
  · cases h
    simp [stepPad2]
  · cases h
    simp [stepFinish]

/-- How a micro-step moves `PHASE`, `BUSY` and `JOB`: `FINISH` ends the message; no other micro-step
changes the phase, only the `UPDATE` of a BLOCK job ends a job, and only `PAD2` changes `JOB`. -/
theorem microStep_sequencer {s t : State} (h : microStep s = .next t) :
    (s.mstep = .finish ∧ t.phase = .done ∧ t.busy = false) ∨
    (t.phase = s.phase ∧ (t.busy = s.busy ∨ t.busy = false ∧ s.job = .block) ∧
      (t.job = s.job ∨ s.mstep = .pad2 ∧ t.job = .finalLast)) := by
  unfold microStep at h
  split at h <;> rename_i hm
  · cases h
    exact .inr ⟨rfl, .inl rfl, .inl rfl⟩
  · unfold stepRound at h
    split at h <;> cases h
    exact .inr ⟨rfl, .inl rfl, .inl rfl⟩
  · cases h
    right
    cases hj : s.job
    · rw [stepUpdate_block hj]
      exact ⟨rfl, .inr ⟨rfl, rfl⟩, .inl hj⟩
    · rw [stepUpdate_finalFirst hj]
      exact ⟨rfl, .inl rfl, .inl hj⟩
    · rw [stepUpdate_finalLast hj]
      exact ⟨rfl, .inl rfl, .inl hj⟩
  · cases h
    right
    refine ⟨?_, .inl ?_, .inr ⟨hm, ?_⟩⟩ <;> simp [stepPad2]
  · cases h
    exact .inl ⟨hm, rfl, rfl⟩

/-- The engine's turn is a micro-step and a fresh free value. -/
theorem engineTurn_next {s t : State} (h : engineTurn s = .next t) :
    ∃ u, microStep s = .next u ∧ t = u.drawSlack := by
  unfold engineTurn at h
  split at h
  · cases h
    exact ⟨_, by assumption, rfl⟩
  · cases h
  · cases h

theorem engineTurn_of_next {s u : State} (h : microStep s = .next u) :
    engineTurn s = .next u.drawSlack := by
  unfold engineTurn
  rw [h]

theorem engineTurn_of_fault {s : State} {f : Fault} (h : microStep s = .fault f) :
    engineTurn s = .fault f := by
  unfold engineTurn
  rw [h]

/-- A run of micro-steps, cut in two. -/
theorem microRun_add {a : Nat} (b : Nat) {s t : State} (h : microRun a s = .next t) :
    microRun (a + b) s = microRun b t := by
  induction a generalizing s with
  | zero =>
    cases h
    simp
  | succ a ih =>
    rw [show a + 1 + b = (a + b) + 1 by omega]
    simp only [microRun] at h ⊢
    split at h
    · exact ih h
    · cases h
    · cases h

end Sys2Proof.Machine
end

