-- ==== Sys2Proof/Laws/Exec.lean ====
section
/-! SUPPORT. Everything a transaction can do: the shared operations by cases, and from them one list of
all the next states that `exec` can answer. -/

namespace Sys2Proof.Machine

/-! ### The shared operations -/

theorem unlessBusy_busy {s : State} {perform : State → Result} (h : s.busy = true) :
    unlessBusy s perform = .next s.hold := by
  simp [unlessBusy, h]

theorem unlessBusy_free {s : State} {perform : State → Result} (h : s.busy = false) :
    unlessBusy s perform = perform s := by
  simp [unlessBusy, h]

/-- The state in which a byte has been stored and counted. -/
def stored (s : State) (d : Byte) (h : s.bufptr.val < 128) : State :=
  { s with
    buf := s.buf.set s.bufptr.val d
    bufptr := ⟨s.bufptr.val + 1, by omega⟩
    len := s.len + 8 }

/-- All that storing a byte can answer as a next state. -/
theorem storeByte_cases {s t : State} {d : Byte} (h : storeByte s d = .next t) :
    ∃ hp : s.bufptr.val < 128,
      (s.bufptr.val < 127 ∧ t = stored s d hp) ∨
      (s.bufptr.val = 127 ∧ t = (stored s d hp).startJob .block) := by
  unfold storeByte at h
  dsimp only at h
  split at h
  · rename_i hp
    refine ⟨hp, ?_⟩
    split at h
    · cases h
      exact .inr ⟨by omega, rfl⟩
    · cases h
      exact .inl ⟨by omega, rfl⟩
  · cases h

/-- All that offering a byte can answer as a next state. -/
theorem absorbByte_cases {s t : State} {d : Byte} (h : absorbByte s d = .next t) :
    (s.phase ≠ .absorb ∧ t = s.raiseError .sequence) ∨
    (s.phase = .absorb ∧ s.len = maxLen ∧ t = s.raiseError .lengthOverflow) ∨
    (s.phase = .absorb ∧ s.len ≠ maxLen ∧ storeByte s d = .next t) := by
  unfold absorbByte at h
  split at h
  · cases h
    exact .inl ⟨by assumption, rfl⟩
  · split at h
    · cases h
      exact .inr (.inl ⟨by simp_all, by assumption, rfl⟩)
    · exact .inr (.inr ⟨by simp_all, by assumption, h⟩)

/-- All that the start of the final job can answer as a next state. -/
theorem startFinal_cases {s t : State} (h : startFinal s = .next t) :
    (s.bufptr.val ≤ 111 ∧
      t = { s with buf := putLength (padTerminator s.buf s.bufptr.val) s.len }.startJob .finalLast) ∨
    (112 ≤ s.bufptr.val ∧ s.bufptr.val ≤ 127 ∧
      t = { s with buf := padTerminator s.buf s.bufptr.val }.startJob .finalFirst) := by
  unfold startFinal at h
  dsimp only at h
  split at h
  · cases h
    exact .inl ⟨by assumption, rfl⟩
  · split at h
    · cases h
      exact .inr ⟨by omega, by assumption, rfl⟩
    · cases h

/-! ### Each operation, while the engine is idle and while it is busy -/

theorem exec_busy {s : State} {i : Instr} (h : s.busy = true) (hi : i ≠ .rdStatus) :
    exec i s = .next s.hold := by
  cases i
  case rdStatus => exact absurd rfl hi
  all_goals
    simp only [exec, execNop, execInit, execFinal, execCmdRsvd, execAbsorb, execWrRo, execWrRsvd,
      execRdDgst, execRdHex, execRdZero, unlessBusy_busy h]

theorem exec_nop {s : State} (h : s.busy = false) : exec .nop s = .next s.retire := by
  simp only [exec, execNop, unlessBusy_free h]

theorem exec_init {s : State} (h : s.busy = false) : exec .init s = .next s.openMessage.retire := by
  simp only [exec, execInit, unlessBusy_free h]

theorem exec_final {s : State} (h : s.busy = false) :
    exec .final s =
      if s.phase ≠ .absorb then .next (s.retire.raiseError .sequence) else startFinal s.retire := by
  simp only [exec, execFinal, unlessBusy_free h]

theorem exec_cmdRsvd {s : State} {v : Byte} (h : s.busy = false) :
    exec (.cmdRsvd v) s = .next (s.retire.raiseError .illegalCommand) := by
  simp only [exec, execCmdRsvd, unlessBusy_free h]

theorem exec_absorb {s : State} {d : Byte} (h : s.busy = false) :
    exec (.absorb d) s = absorbByte s.retire d := by
  simp only [exec, execAbsorb, unlessBusy_free h]

theorem exec_wrRo {s : State} {a x : Byte} (h : s.busy = false) :
    exec (.wrRo a x) s = .next s.retire := by
  simp only [exec, execWrRo, unlessBusy_free h]

theorem exec_wrRsvd {s : State} {a x : Byte} (h : s.busy = false) :
    exec (.wrRsvd a x) s = .next s.retire := by
  simp only [exec, execWrRsvd, unlessBusy_free h]

theorem exec_rdDgst {s : State} {i : BitVec 6} (h : s.busy = false) :
    exec (.rdDgst i) s = .next (s.respond (readDgst s i)) := by
  simp only [exec, execRdDgst, unlessBusy_free h]

theorem exec_rdHex {s : State} {j : BitVec 7} (h : s.busy = false) :
    exec (.rdHex j) s = .next (s.respond (readHex s j)) := by
  simp only [exec, execRdHex, unlessBusy_free h]

theorem exec_rdZero {s : State} {a : Byte} (h : s.busy = false) :
    exec (.rdZero a) s = .next (s.respond 0x00) := by
  simp only [exec, execRdZero, unlessBusy_free h]

/-! ### The list -/

/-- `Performs s i t`: transaction `i`, presented in state `s`, can leave state `t`; one constructor for
each way. -/
inductive Performs (s : State) : Instr → State → Prop
  | held {i} : s.busy = true → i ≠ .rdStatus → Performs s i s.hold
  | status : Performs s .rdStatus (s.respond (statusByte s))
  | nop : s.busy = false → Performs s .nop s.retire
  | wrRo {a x} : s.busy = false → Performs s (.wrRo a x) s.retire
  | wrRsvd {a x} : s.busy = false → Performs s (.wrRsvd a x) s.retire
  | init : s.busy = false → Performs s .init s.openMessage.retire
  | cmdRsvd {v} : s.busy = false → Performs s (.cmdRsvd v) (s.retire.raiseError .illegalCommand)
  | finalSequence : s.busy = false → s.phase ≠ .absorb →
      Performs s .final (s.retire.raiseError .sequence)
  | finalOneBlock : s.busy = false → s.phase = .absorb → s.bufptr.val ≤ 111 →
      Performs s .final
        ({ s.retire with buf := putLength (padTerminator s.buf s.bufptr.val) s.len }.startJob .finalLast)
  | finalTwoBlocks : s.busy = false → s.phase = .absorb → 112 ≤ s.bufptr.val → s.bufptr.val ≤ 127 →
      Performs s .final ({ s.retire with buf := padTerminator s.buf s.bufptr.val }.startJob .finalFirst)
  | absorbSequence {d} : s.busy = false → s.phase ≠ .absorb →
      Performs s (.absorb d) (s.retire.raiseError .sequence)
  | absorbOverflow {d} : s.busy = false → s.phase = .absorb → s.len = maxLen →
      Performs s (.absorb d) (s.retire.raiseError .lengthOverflow)
  | absorbMore {d} : s.busy = false → s.phase = .absorb → s.len ≠ maxLen →
      (hp : s.bufptr.val < 128) → s.bufptr.val < 127 → Performs s (.absorb d) (stored s.retire d hp)
  | absorbFull {d} : s.busy = false → s.phase = .absorb → s.len ≠ maxLen →
      (hp : s.bufptr.val < 128) → s.bufptr.val = 127 →
      Performs s (.absorb d) ((stored s.retire d hp).startJob .block)
  | rdDgst {i} : s.busy = false → Performs s (.rdDgst i) (s.respond (readDgst s i))
  | rdHex {j} : s.busy = false → Performs s (.rdHex j) (s.respond (readHex s j))
  | rdZero {a} : s.busy = false → Performs s (.rdZero a) (s.respond 0x00)

/-- Whatever `exec` answers as a next state is on the list. -/
theorem exec_performs {i : Instr} {s t : State} (h : exec i s = .next t) : Performs s i t := by
  by_cases hi : i = .rdStatus
  · subst hi
    cases h
    exact .status
  · cases hb : s.busy
    · cases i with
      | nop => rw [exec_nop hb] at h; cases h; exact .nop hb
      | init => rw [exec_init hb] at h; cases h; exact .init hb
      | final =>
        rw [exec_final hb] at h
        split at h
        · cases h
          exact .finalSequence hb (by assumption)
        · rename_i hp
          have hp : s.phase = .absorb := by simpa using hp
          rcases startFinal_cases h with ⟨h1, rfl⟩ | ⟨h1, h2, rfl⟩
          · exact .finalOneBlock hb hp h1
          · exact .finalTwoBlocks hb hp h1 h2
      | cmdRsvd v => rw [exec_cmdRsvd hb] at h; cases h; exact .cmdRsvd hb
      | absorb d =>
        rw [exec_absorb hb] at h
        rcases absorbByte_cases h with ⟨h1, rfl⟩ | ⟨h1, h2, rfl⟩ | ⟨h1, h2, h3⟩
        · exact .absorbSequence hb h1
        · exact .absorbOverflow hb h1 h2
        · obtain ⟨hp, ⟨h4, rfl⟩ | ⟨h4, rfl⟩⟩ := storeByte_cases h3
          · exact .absorbMore hb h1 h2 hp h4
          · exact .absorbFull hb h1 h2 hp h4
      | wrRo => rw [exec_wrRo hb] at h; cases h; exact .wrRo hb
      | wrRsvd => rw [exec_wrRsvd hb] at h; cases h; exact .wrRsvd hb
      | rdStatus => exact absurd rfl hi
      | rdDgst => rw [exec_rdDgst hb] at h; cases h; exact .rdDgst hb
      | rdHex => rw [exec_rdHex hb] at h; cases h; exact .rdHex hb
      | rdZero => rw [exec_rdZero hb] at h; cases h; exact .rdZero hb
    · rw [exec_busy hb hi] at h
      cases h
      exact .held hb hi

end Sys2Proof.Machine
end

