-- ==== Sys2Proof/Laws/PerInstr.lean ====
section
/-! SUPPORT. One lemma per operation: the word the encoder writes carries the operation's direction,
offset and data byte in the fields RW, ADDR and DATA (30_encoding.md R42). -/

namespace Sys2Proof.Laws.WordFields

/-- The fields of the operation's word. -/
def Statement (i : Instr) : Prop :=
  (encodeWord i).rw = i.isWrite ∧ (encodeWord i).addr = i.offset ∧ (encodeWord i).data = i.dataField

theorem of_mkTxnWord (i : Instr) : Statement i := by
  unfold Statement encodeWord
  simp

theorem nop : Statement .nop := of_mkTxnWord _
theorem init : Statement .init := of_mkTxnWord _
theorem final : Statement .final := of_mkTxnWord _
theorem cmdRsvd (v : Byte) : Statement (.cmdRsvd v) := of_mkTxnWord _
theorem absorb (d : Byte) : Statement (.absorb d) := of_mkTxnWord _
theorem wrRo (a x : Byte) : Statement (.wrRo a x) := of_mkTxnWord _
theorem wrRsvd (a x : Byte) : Statement (.wrRsvd a x) := of_mkTxnWord _
theorem rdStatus : Statement .rdStatus := of_mkTxnWord _
theorem rdDgst (i : BitVec 6) : Statement (.rdDgst i) := of_mkTxnWord _
theorem rdHex (j : BitVec 7) : Statement (.rdHex j) := of_mkTxnWord _
theorem rdZero (a : Byte) : Statement (.rdZero a) := of_mkTxnWord _

end Sys2Proof.Laws.WordFields
end

