-- ==== Sys2Proof/Laws/Step.lean ====
section
/-! SUPPORT. Everything a step can do: whose turn it is, and the next state by cases. -/

namespace Sys2Proof.Machine

theorem whoseTurn_reset {s : State} : whoseTurn s = .reset ↔ s.resetIn.head? = some true := by
  unfold whoseTurn
  split
  · simp [*]
  · simp only [*]
    split
    · split <;> simp
    · split <;> simp

/-- The engine goes only while `BUSY = 1`. -/
theorem whoseTurn_engine {s : State} (h : whoseTurn s = .engine) : s.busy = true := by
  unfold whoseTurn at h
  split at h
  · cases h
  · split at h
    · split at h
      · assumption
      · cases h
    · split at h
      · simp_all
      · cases h

/-- The host goes with the first access it has pending. -/
theorem whoseTurn_host {s : State} {r : Request} (h : whoseTurn s = .host r) :
    ∃ rest, s.pending = r :: rest := by
  unfold whoseTurn at h
  split at h
  · cases h
  · split at h
    · split at h <;> cases h
    · split at h
      · cases h
      · cases h
        exact ⟨_, by assumption⟩

/-- When it is the host's turn. -/
theorem whoseTurn_of_host {s : State} {r : Request} {rest : List Request}
    (h1 : s.resetIn.head? ≠ some true) (h2 : s.pending = r :: rest)
    (h3 : s.busy = false ∨ s.holding = false ∧ s.slack ≠ 0) : whoseTurn s = .host r := by
  unfold whoseTurn
  rw [if_neg h1, h2]
  rcases h3 with h | ⟨h, h'⟩ <;> simp [*]

/-- When it is the engine's turn. -/
theorem whoseTurn_of_engine {s : State} (h1 : s.resetIn.head? ≠ some true) (h2 : s.busy = true)
    (h3 : s.pending = [] ∨ s.holding = true ∨ s.slack = 0) : whoseTurn s = .engine := by
  unfold whoseTurn
  rw [if_neg h1]
  split
  · simp [h2]
  · rcases h3 with h | h | h <;> simp_all

/-- When nobody has anything to do. -/
theorem whoseTurn_of_idle {s : State} (h1 : s.resetIn.head? ≠ some true) (h2 : s.busy = false)
    (h3 : s.pending = []) : whoseTurn s = .idle := by
  unfold whoseTurn
  rw [if_neg h1]
  simp [h2, h3]

/-- What goes around `exec` in a host's step, in one update. -/
theorem useTurn_passReset (s : State) :
    s.passReset.useTurn =
      { s with resetIn := s.resetIn.tail, slack := if s.busy then s.slack - 1 else s.slack } := by
  unfold State.passReset State.useTurn
  cases h : s.busy <;> simp

theorem step_engine {s : State} (h : whoseTurn s = .engine) : step s = engineTurn s.passReset := by
  unfold step
  rw [h]

theorem step_idle {s : State} (h : whoseTurn s = .idle) : step s = .next s.passReset := by
  unfold step
  rw [h]

/-- All that a step can answer as a next state. -/
theorem step_cases {s t : State} (h : step s = .next t) :
    (whoseTurn s = .reset ∧ t = s.applyReset) ∨
    (whoseTurn s = .engine ∧ s.busy = true ∧ ∃ u, microStep s.passReset = .next u ∧ t = u.drawSlack) ∨
    (whoseTurn s = .idle ∧ t = s.passReset) ∨
    (∃ r rest i, whoseTurn s = .host r ∧ s.pending = r :: rest ∧ fetch r = .ok i ∧
      exec i s.passReset.useTurn = .next t) := by
  unfold step at h
  split at h
  · cases h
    exact .inl ⟨by assumption, rfl⟩
  · rename_i hw
    exact .inr (.inl ⟨hw, whoseTurn_engine hw, engineTurn_next h⟩)
  · cases h
    exact .inr (.inr (.inl ⟨by assumption, rfl⟩))
  · rename_i r hw
    obtain ⟨rest, hr⟩ := whoseTurn_host hw
    split at h
    · cases h
    · exact .inr (.inr (.inr ⟨r, rest, _, hw, hr, by assumption, h⟩))

/-- A run of steps, cut in two. -/
theorem runSteps_add {a : Nat} (b : Nat) {s t : State} (h : runSteps a s = .next t) :
    runSteps (a + b) s = runSteps b t := by
  induction a generalizing s with
  | zero =>
    cases h
    simp
  | succ a ih =>
    rw [show a + 1 + b = (a + b) + 1 by omega]
    simp only [runSteps] at h ⊢
    split at h
    · exact ih h
    · cases h
    · cases h

end Sys2Proof.Machine
end

