-- ==== Sys2Proof/Tests/Slice0.lean ====
section
/-! SUPPORT. The model's own tests: the well-formedness checks, words written out from the spec's
encoding, single steps with the results of 95_test_vectors.md, and, for every statement with hypotheses,
a witness that meets them. -/

namespace Sys2Proof.Tests

-- one theorem at a time: the memory limit does not allow for so many in parallel
set_option Elab.async false

open Sys2Proof.Machine

/-! ### Small states -/

/-- After INIT. -/
def fresh : State := State.reset.openMessage

/-- After `"abc"`. -/
def abc : State :=
  { fresh with
    buf := ((Vector.replicate 128 0x00).set 0 0x61).set 1 0x62 |>.set 2 0x63
    bufptr := 3
    len := 24 }

/-- A final job running on an empty message, before the micro-step `m`. -/
def running (m : MStep) : State := { fresh with job := .finalLast, mstep := m, busy := true }

/-- A running BLOCK job, before the micro-step `m`. -/
def blockJob (m : MStep) : State :=
  { fresh with bufptr := 128, len := 1024, job := .block, mstep := m, busy := true }

/-- A final job of two blocks running, before the micro-step `m`. -/
def twoBlocks (m : MStep) : State :=
  { fresh with bufptr := 112, len := 896, job := .finalFirst, mstep := m, busy := true }

/-- After FINISH. -/
def done : State := stepFinish (running .finish)

/-- `s` with the access `r` to make. -/
def State.asks (s : State) (r : Request) : State := { s with pending := [r] }

/-- A view of the next state, none for a fault or a refusal. -/
def view (f : State → α) : Result → Option α
  | .next s => some (f s)
  | .fault _ => none
  | .refused _ => none

theorem exists_next {r : Result} (h : (view (fun _ => ()) r).isSome = true) : ∃ t, r = .next t := by
  cases r with
  | next t => exact ⟨t, rfl⟩
  | fault f => cases h
  | refused r => cases h

theorem exists_next_with {r : Result} {p : State → Bool} (h : view p r = some true) :
    ∃ t, r = .next t ∧ p t = true := by
  cases r with
  | next t => exact ⟨t, rfl, by simpa [view] using h⟩
  | fault f => cases h
  | refused r => cases h

/-! ### WellFormed: what the checks refuse -/

theorem test_wf_cmdRsvd_refuses_commands :
    (Instr.cmdRsvd 0x00).wf = false ∧ (Instr.cmdRsvd 0x02).wf = false ∧ (Instr.cmdRsvd 0x03).wf = true := by
  decide +kernel

theorem test_wf_wrRo_refuses_writable :
    (Instr.wrRo 0x00 0x55).wf = false ∧ (Instr.wrRo 0x02 0x55).wf = false ∧
    (Instr.wrRo 0x3F 0x55).wf = false ∧ (Instr.wrRo 0x01 0x55).wf = true ∧
    (Instr.wrRo 0x40 0x55).wf = true ∧ (Instr.wrRo 0xFF 0x55).wf = true := by
  decide +kernel

theorem test_wf_wrRsvd_refuses_registers :
    (Instr.wrRsvd 0x02 0x55).wf = false ∧ (Instr.wrRsvd 0x40 0x55).wf = false ∧
    (Instr.wrRsvd 0x03 0x55).wf = true ∧ (Instr.wrRsvd 0x3F 0x55).wf = true := by
  decide +kernel

theorem test_wf_rdZero_refuses_readable :
    (Instr.rdZero 0x01).wf = false ∧ (Instr.rdZero 0x40).wf = false ∧ (Instr.rdZero 0x80).wf = false ∧
    (Instr.rdZero 0x00).wf = true ∧ (Instr.rdZero 0x02).wf = true ∧ (Instr.rdZero 0x3F).wf = true := by
  decide +kernel

theorem test_wf_platform :
    (Platform.mk []).wf = false ∧ (Platform.mk [0x100, 0x180]).wf = false ∧
    (Platform.mk [0x100, 0x200]).wf = true := by
  decide +kernel

/-! ### Decode: RW ‖ ADDR ‖ DATA, bit by bit (30_encoding.md R42 to R45) -/

theorem test_decode_commands :
    decodeWord 0b1_00000000_00000000 = .nop ∧ decodeWord 0b1_00000000_00000001 = .init ∧
    decodeWord 0b1_00000000_00000010 = .final ∧
    decodeWord 0b1_00000000_00000011 = .cmdRsvd 0b00000011 ∧
    decodeWord 0b1_00000000_10100101 = .cmdRsvd 0b10100101 := by
  decide +kernel

theorem test_decode_writes :
    decodeWord 0b1_00000010_01100001 = .absorb 0b01100001 ∧
    decodeWord 0b1_00000001_11110000 = .wrRo 0b00000001 0b11110000 ∧
    decodeWord 0b1_01000000_00000000 = .wrRo 0b01000000 0 ∧
    decodeWord 0b1_11111111_00000000 = .wrRo 0b11111111 0 ∧
    decodeWord 0b1_00000011_01010101 = .wrRsvd 0b00000011 0b01010101 ∧
    decodeWord 0b1_00111111_01010101 = .wrRsvd 0b00111111 0b01010101 := by
  decide +kernel

theorem test_decode_reads :
    decodeWord 0b0_00000001_00000000 = .rdStatus ∧ decodeWord 0b0_00000000_00000000 = .rdZero 0 ∧
    decodeWord 0b0_00000010_00000000 = .rdZero 2 ∧ decodeWord 0b0_00111111_00000000 = .rdZero 0b00111111 ∧
    decodeWord 0b0_01000000_00000000 = .rdDgst 0b000000 ∧ decodeWord 0b0_01100101_00000000 = .rdDgst 0b100101 ∧
    decodeWord 0b0_01111111_00000000 = .rdDgst 0b111111 ∧ decodeWord 0b0_10000000_00000000 = .rdHex 0b0000000 ∧
    decodeWord 0b0_11000101_00000000 = .rdHex 0b1000101 ∧ decodeWord 0b0_11111111_00000000 = .rdHex 0b1111111 := by
  decide +kernel

theorem test_decode_ignores_read_data : decodeWord 0b0_01000001_11111111 = .rdDgst 1 := by decide +kernel

theorem test_decode_rejects_by_name :
    decode [] = .error .notThreeBytes ∧ decode [0x00, 0x00] = .error .notThreeBytes ∧
    decode [0x00, 0x00, 0x02] = .error .bitsAboveWord ∧ decodeTableWord 24 0x20000 = none := by
  decide +kernel

theorem test_encode_words :
    encodeWord .init = 0x10001 ∧ encodeWord (.absorb 0x61) = 0x10261 ∧ encodeWord .rdStatus = 0x00100 ∧
    encodeWord (.rdDgst 63) = 0x07F00 ∧ encodeWord (.rdHex 127) = 0x0FF00 := by
  decide +kernel

/-! ### The logical functions (95_test_vectors.md §2.1) -/

theorem test_rotr_shr :
    rotr 0x0123456789abcdef 28 = 0x9abcdef012345678 ∧ rotr 0x1 1 = 0x8000000000000000 ∧
    shr 0xffffffffffffffff 6 = 0x03ffffffffffffff := by
  decide +kernel

theorem test_ch_maj :
    ch 0xff00ff00ff00ff00 0x0123456789abcdef 0xfedcba9876543210 = 0x01dc45988954cd10 ∧
    maj 0xff00ff00ff00ff00 0x0123456789abcdef 0xfedcba9876543210 = 0xff00ff00ff00ff00 := by
  decide +kernel

theorem test_big_sigmas :
    bigSigma0 0x6a09e667f3bcc908 = 0x08c4db56aac80c2a ∧ bigSigma0 0x1 = 0x0000001042000000 ∧
    bigSigma1 0x510e527fade682d1 = 0x9427e33bb5c9dbca ∧ bigSigma1 0x1 = 0x0004400000800000 := by
  decide +kernel

theorem test_small_sigmas :
    smallSigma0 0x6a09e667f3bcc908 = 0x3dbae91951caa1df ∧ smallSigma0 0x1 = 0x8100000000000000 ∧
    smallSigma1 0x6a09e667f3bcc908 = 0xc8c619e73ee44510 ∧ smallSigma1 0x1 = 0x0000200000000008 := by
  decide +kernel

theorem test_constants :
    roundConstants[0] = 0x428a2f98d728ae22 ∧ roundConstants[79] = 0x6c44198c4a475817 ∧
    iv[0] = 0x6a09e667f3bcc908 ∧ iv[7] = 0x5be0cd19137e2179 := by
  decide +kernel

/-! ### Micro-steps (95_test_vectors.md §2.2 to §2.4) -/

/-- Round 0 of the `abc` block: its words a and e. -/
theorem test_round_zero_of_abc :
    (roundVars iv roundConstants[0] 0x6162638000000000)[0] = 0xf6afceb8bcfcddf5 ∧
    (roundVars iv roundConstants[0] 0x6162638000000000)[4] = 0x58cb02347ab51f91 := by
  decide +kernel

/-- W_16 and W_17 of the `abc` block. -/
theorem test_schedule_words_of_abc :
    expandWord 0 0 0 0x6162638000000000 = 0x6162638000000000 ∧
    expandWord 0x18 0 0 0 = 0x00030000000000c0 := by
  decide +kernel

theorem test_load_of_abc :
    view (fun s => (s.w[0], s.mstep, s.t.val)) (microStep { abc with mstep := .load }) =
      some (0x6162630000000000, .round, 0) := by
  decide +kernel

theorem test_pad2_length :
    view (fun s => (s.buf[0], s.buf[126], s.buf[127], s.job)) (microStep (twoBlocks .pad2)) =
      some (0x00, 0x03, 0x80, .finalLast) := by
  decide +kernel

theorem test_finish_digest_and_hex :
    view (fun s => (s.dgst[0], s.dgst[7], s.hex[0], s.hex[15], s.phase, s.busy))
      (microStep { running .finish with h := (Vector.replicate 8 0).set 0 0xddaf35a193617aba }) =
      some (0xdd, 0xba, 0x64, 0x61, .done, false) := by
  decide +kernel

theorem test_hexOfByte :
    (hexOfByte 0x0a false, hexOfByte 0x0a true) = (0x30, 0x61) ∧
    (hexOfByte 0x9f false, hexOfByte 0x9f true) = (0x39, 0x66) := by
  decide +kernel

/-! ### Transactions (95_test_vectors.md §2.5) -/

theorem test_nop_status : view statusByte (exec .nop fresh) = some 0x02 := by decide +kernel

theorem test_init_from_done :
    view (fun s => (statusByte s, s.h[0], s.len, s.dgst[0])) (exec .init done) =
      some (0x02, 0x6a09e667f3bcc908, 0, 0x00) := by
  decide +kernel

theorem test_final_pads_abc :
    view (fun s => (statusByte s, s.buf[2], s.buf[3], s.buf[4], s.buf[127], s.job)) (exec .final abc) =
      some (0x03, 0x63, 0x80, 0x00, 0x18, .finalLast) := by
  decide +kernel

theorem test_final_in_done :
    view (fun s => (statusByte s, decide (s.dgst = done.dgst))) (exec .final done) = some (0x14, true) := by
  decide +kernel

theorem test_cmdRsvd_status : view statusByte (exec (.cmdRsvd 0xFF) fresh) = some 0x22 := by decide +kernel

theorem test_absorb_fills_the_buffer :
    view (fun s => (statusByte s, s.buf[127], s.job)) (exec (.absorb 0x7A) { fresh with bufptr := 127, len := 1016 }) =
      some (0x03, 0x7A, .block) := by
  decide +kernel

theorem test_absorb_length_check :
    view statusByte (exec (.absorb 0x61) { fresh with len := maxLen, bufptr := 127 }) = some 0x0E := by
  decide +kernel

theorem test_wrRo_in_done : view statusByte (exec (.wrRo 0x40 0x00) done) = some 0x04 := by decide +kernel

theorem test_wrRsvd_ignored : view statusByte (exec (.wrRsvd 0x3F 0x55) fresh) = some 0x02 := by decide +kernel

theorem test_rdStatus_while_busy :
    view (·.returned) (exec .rdStatus (running .load)) = some [0x03] := by decide +kernel

theorem test_rdDgst_byte :
    view (·.returned) (exec (.rdDgst 63) { done with dgst := (Vector.replicate 64 0x00).set 63 0x3E }) = some [0x3E] := by
  decide +kernel

theorem test_rdDgst_in_absorb : view (·.returned) (exec (.rdDgst 0) fresh) = some [0x00] := by decide +kernel

theorem test_rdHex_character :
    view (·.returned) (exec (.rdHex 127) { done with hex := (Vector.replicate 128 0x30).set 127 0x65 }) = some [0x65] := by
  decide +kernel

theorem test_rdZero_returns_zero : view (·.returned) (exec (.rdZero 0x3F) fresh) = some [0x00] := by decide +kernel

/-! ### Steps -/

theorem test_step_runs_the_transaction :
    view statusByte (step (State.reset.withFetchWord 24 0x10001)) = some 0x02 := by decide +kernel

theorem test_reset_cancels_a_held_read :
    view (fun s => (s.pending, s.returned, statusByte s))
      (step { running .load with pending := [.rd 0x40, .rd 0x01], holding := true, resetIn := [true] }) =
      some ([.rd 0x01], [], 0x00) := by
  decide +kernel

theorem test_wide_access_refused : step (State.asks fresh ⟨true, 0x02, [0x61, 0x62]⟩) = .refused .notOneByte := rfl

/-! ### Witnesses: states and operands that meet the hypotheses of the statements -/

theorem witness_DecodeOfEncodeIsIdentity :
    ∀ i ∈ [Instr.nop, .init, .final, .cmdRsvd 0x03, .cmdRsvd 0xFF, .absorb 0x00, .absorb 0xFF, .wrRo 0x01 0x00,
      .wrRo 0x40 0xFF, .wrRo 0xFF 0x00, .wrRsvd 0x03 0x00, .wrRsvd 0x3F 0xFF, .rdStatus, .rdDgst 0, .rdDgst 63,
      .rdHex 0, .rdHex 127, .rdZero 0x00, .rdZero 0x02, .rdZero 0x03, .rdZero 0x3F], i.wf = true := by
  decide +kernel

theorem witness_ExactlyOneTableRowMatches : ∃ r : Row, r ∈ readRows :=
  ⟨⟨.RD_STATUS, 0x00100, 0x1FF00⟩, by decide +kernel⟩

theorem witness_RegisterMap :
    State.reset.busy = false ∧
    (∀ a ∈ [0x00, 0x02, 0x03, 0x3F], ∀ b : Byte, b = a →
      b.toNat = 0x00 ∨ b.toNat = 0x02 ∨ 0x03 ≤ b.toNat ∧ b.toNat ≤ 0x3F) ∧
    (0x40 : Byte).toNat = 0x40 + (0 : Fin 64).val ∧ (0x7F : Byte).toNat = 0x40 + (63 : Fin 64).val ∧
    (0x80 : Byte).toNat = 0x80 + (0 : Fin 128).val ∧ (0xFF : Byte).toNat = 0x80 + (127 : Fin 128).val ∧
    (0x01 : Byte) ≠ 0x00 ∧ (0x01 : Byte) ≠ 0x02 := by
  decide +kernel

/-- At the last offset of the window, on an idle engine and on a busy one; on the engine's turn with a host
that has nothing to do, that holds, and that has no turn left; in a round that is not there; and idle. -/
theorem witness_StepRunsTheDecodedInstruction :
    (∃ (s : State) (rest : List Request), s.resetIn.head? ≠ some true ∧ s.pending = ⟨false, 255, [0x00]⟩ :: rest ∧
      255 < 256 ∧ decode (wordBytes (mkTxnWord false (BitVec.ofNat 8 255) 0x00)) = .ok (.rdHex 127) ∧
      s.busy = false) ∧
    (∃ (s : State) (rest : List Request), s.resetIn.head? ≠ some true ∧ s.pending = ⟨false, 255, [0x00]⟩ :: rest ∧
      s.busy = true ∧ s.holding = false ∧ s.slack ≠ 0) ∧
    (0x1FFFF < 2 ^ 17 ∧ decodeTableWord 24 0x1FFFF = some (.wrRo 0xFF 0xFF)) ∧
    (∀ s ∈ [{ running .load with slack := 1 },
        { State.asks (running .load) (.rd 0x40) with slack := 1, holding := true },
        State.asks (running .load) (.rd 0x01)],
      s.resetIn.head? ≠ some true ∧ s.busy = true ∧ (s.pending = [] ∨ s.holding = true ∨ s.slack = 0) ∧
      ∃ u, microStep { s with resetIn := s.resetIn.tail } = .next u) ∧
    (microStep { running .round with t := 80, resetIn := [] } = .fault .engineStuck) ∧
    (fresh.resetIn.head? ≠ some true ∧ fresh.busy = false ∧ fresh.pending = []) :=
  ⟨⟨State.asks fresh (.rd 0xFF), [], by decide +kernel⟩,
    ⟨{ State.asks (running .load) (.rd 0xFF) with slack := 1 }, [], by decide +kernel⟩, by decide +kernel,
    by simp [running, fresh, State.asks, State.reset, microStep], rfl, by decide +kernel⟩

theorem witness_NonTransactionsAreRefused :
    (∃ (s : State) (r : Request), s.resetIn.head? ≠ some true ∧ s.pending = [r] ∧ s.busy = false ∧
      r.lanes.length ≠ 1) ∧
    (∃ (s : State) (r : Request), s.resetIn.head? ≠ some true ∧ s.pending = [r] ∧ s.holding = false ∧
      s.slack ≠ 0 ∧ r.lanes.length = 1 ∧ 256 ≤ r.offset) :=
  ⟨⟨State.asks fresh ⟨false, 0, []⟩, ⟨false, 0, []⟩, by decide +kernel⟩,
    ⟨{ State.asks (running .load) ⟨true, 256, [0]⟩ with slack := 1 }, ⟨true, 256, [0]⟩, by decide +kernel⟩⟩

theorem witness_TransactionsHoldWhileBusy :
    ((running .load).busy = true ∧ Instr.nop ≠ .rdStatus) ∧
    (∃ s t : State, s.busy = true ∧ s.holding = true ∧ s.pending ≠ [] ∧ s.resetIn.head? ≠ some true ∧
      step s = .next t) ∧
    (∃ s : State, s.busy = false ∧ s.resetIn.head? ≠ some true ∧ s.pending = [.wr 0x00 0x01] ∧
      fetch (.wr 0x00 0x01) = .ok .init) := by
  refine ⟨by decide +kernel, ?_, State.asks fresh (.wr 0x00 0x01), by decide +kernel⟩
  obtain ⟨t, h⟩ := exists_next
    (r := step { State.asks (running .load) (.rd 0x40) with holding := true }) (by decide +kernel)
  exact ⟨_, t, rfl, rfl, by decide +kernel, by decide +kernel, h⟩

theorem witness_EngineTurnComes :
    ∃ s : State, Invariant s ∧ s.busy = true ∧ true ∉ s.resetIn ∧ s.slack = 1 ∧ s.pending = [.rd 0x01] ∧
      ∀ r ∈ s.pending, ∃ i, fetch r = .ok i :=
  ⟨{ State.asks (running .load) (.rd 0x01) with slack := 1 }, by decide +kernel, rfl, by decide +kernel, rfl,
    rfl, by
    intro r hr
    obtain rfl : r = .rd 0x01 := by simpa [State.asks] using hr
    exact ⟨.rdStatus, by decide +kernel⟩⟩

theorem witness_HeldTransactionCompletes :
    ∃ s : State, Invariant s ∧ s.busy = true ∧ s.holding = true ∧ s.pending = [.rd 0x40] ∧
      fetch (.rd 0x40) = .ok (.rdDgst 0) ∧ true ∉ s.resetIn :=
  ⟨{ State.asks (twoBlocks .load) (.rd 0x40) with holding := true }, by decide +kernel⟩

theorem witness_OneTransactionAtATime :
    ∃ s t : State, s.resetIn.head? ≠ some true ∧ s.pending = [.rd 0x01] ∧ step s = .next t := by
  obtain ⟨t, h⟩ := exists_next (r := step (State.asks fresh (.rd 0x01))) (by decide +kernel)
  exact ⟨_, t, by decide +kernel, rfl, h⟩

theorem witness_ResetSetsEveryElement :
    (∃ s : State, s.resetIn.head? = some true ∧ s.holding = true) ∧
    (∃ s : State, s.resetIn.head? = some true ∧ s.holding = false) :=
  ⟨⟨{ running .load with resetIn := [true], holding := true }, by decide +kernel⟩,
    ⟨{ fresh with resetIn := [true] }, by decide +kernel⟩⟩

theorem witness_ResetNeedsInit :
    State.reset.phase = .idle ∧ State.reset.busy = false ∧ Instr.final ≠ .init ∧
    (∃ d, Instr.absorb 0x61 = .absorb d) ∧ done.busy = false :=
  ⟨rfl, rfl, by decide, ⟨0x61, rfl⟩, rfl⟩

theorem witness_StatusLayout : State.reset.busy = false := rfl

/-- One state for each way PHASE changes, and the maximal `LEN`. -/
theorem witness_PhaseWriters :
    (∃ s : State, s.busy = false) ∧
    (∃ s : State, s.busy = false ∧ s.phase = .absorb ∧ s.len = maxLen) ∧
    (∃ s t : State, step s = .next t ∧ (t.phase ≠ s.phase ∧ s.resetIn = [true])) ∧
    (∃ s t : State, step s = .next t ∧ (t.phase ≠ s.phase ∧ s.mstep = .finish)) ∧
    (∃ s t : State, step s = .next t ∧ (t.phase ≠ s.phase ∧ s.pending = [.wr 0x00 0x01])) ∧
    (∃ s t : State, step s = .next t ∧ (t.phase ≠ s.phase ∧ s.pending = [.wr 0x02 0x61])) := by
  refine ⟨⟨fresh, rfl⟩, ⟨{ fresh with len := maxLen }, rfl, rfl, rfl⟩, ?_, ?_, ?_, ?_⟩
  · obtain ⟨t, h, hp⟩ := exists_next_with (r := step { fresh with resetIn := [true] })
      (p := fun t => decide (t.phase ≠ .absorb)) (by decide +kernel)
    exact ⟨_, t, h, of_decide_eq_true hp, rfl⟩
  · obtain ⟨t, h, hp⟩ := exists_next_with (r := step (running .finish))
      (p := fun t => decide (t.phase ≠ .absorb)) (by decide +kernel)
    exact ⟨_, t, h, of_decide_eq_true hp, rfl⟩
  · obtain ⟨t, h, hp⟩ := exists_next_with (r := step (State.asks State.reset (.wr 0x00 0x01)))
      (p := fun t => decide (t.phase ≠ .idle)) (by decide +kernel)
    exact ⟨_, t, h, of_decide_eq_true hp, rfl⟩
  · obtain ⟨t, h, hp⟩ := exists_next_with (r := step (State.asks { fresh with len := maxLen } (.wr 0x02 0x61)))
      (p := fun t => decide (t.phase ≠ .absorb)) (by decide +kernel)
    exact ⟨_, t, h, of_decide_eq_true hp, rfl⟩

/-- BUSY rises by the byte that fills the buffer and by FINAL; it falls by `UPDATE`, `FINISH` and reset. -/
theorem witness_BusyWriters :
    (∃ s t : State, step s = .next t ∧ (s.busy = false ∧ t.busy = true ∧ s.bufptr.val = 127)) ∧
    (∃ s t : State, step s = .next t ∧ (s.busy = false ∧ t.busy = true ∧ s.pending = [.wr 0x00 0x02])) ∧
    (∃ s t : State, step s = .next t ∧ (s.busy = true ∧ t.busy = false ∧ s.mstep = .update)) ∧
    (∃ s t : State, step s = .next t ∧ (s.busy = true ∧ t.busy = false ∧ s.mstep = .finish)) ∧
    (∃ s t : State, step s = .next t ∧ (s.busy = true ∧ t.busy = false ∧ s.resetIn = [true])) := by
  refine ⟨?_, ?_, ?_, ?_, ?_⟩
  · obtain ⟨t, h, hp⟩ := exists_next_with (p := State.busy)
      (r := step (State.asks { fresh with bufptr := 127, len := 1016 } (.wr 0x02 0x61))) (by decide +kernel)
    exact ⟨_, t, h, rfl, hp, rfl⟩
  · obtain ⟨t, h, hp⟩ := exists_next_with (p := State.busy)
      (r := step (State.asks fresh (.wr 0x00 0x02))) (by decide +kernel)
    exact ⟨_, t, h, rfl, hp, rfl⟩
  · obtain ⟨t, h, hp⟩ := exists_next_with (p := fun t => !t.busy) (r := step (blockJob .update)) (by decide +kernel)
    exact ⟨_, t, h, rfl, by simpa using hp, rfl⟩
  · obtain ⟨t, h, hp⟩ := exists_next_with (p := fun t => !t.busy) (r := step (running .finish)) (by decide +kernel)
    exact ⟨_, t, h, rfl, by simpa using hp, rfl⟩
  · obtain ⟨t, h, hp⟩ := exists_next_with (p := fun t => !t.busy)
      (r := step { running .load with resetIn := [true] }) (by decide +kernel)
    exact ⟨_, t, h, rfl, by simpa using hp, rfl⟩

theorem witness_ErrorFlagsAreSticky :
    (∃ s t : State, step s = .next t ∧ whoseTurn s ≠ .reset ∧ s.busy = true ∧ s.seqerr = true) ∧
    (∃ s t : State, step s = .next t ∧ whoseTurn s ≠ .reset ∧
      (∀ r, whoseTurn s = .host r → fetch r ≠ .ok .init) ∧ s.lenovf = true ∧ s.cmderr = true) := by
  constructor
  · obtain ⟨t, h⟩ := exists_next (r := step { running .load with seqerr := true }) (by decide +kernel)
    exact ⟨_, t, h, by decide +kernel, rfl, rfl⟩
  · obtain ⟨t, h⟩ := exists_next
      (r := step { State.reset with lenovf := true, cmderr := true }) (by decide +kernel)
    refine ⟨_, t, h, by decide +kernel, ?_, rfl, rfl⟩
    intro r hr
    cases hr

theorem witness_NopDoesNothing : fresh.busy = false ∧ (running .load).busy = true := ⟨rfl, rfl⟩

theorem witness_InitStartsAMessage : done.busy = false ∧ (running .load).busy = true := ⟨rfl, rfl⟩

/-- At the two ends of each branch: `BUFPTR` 0, 111, 112 and 127. -/
theorem witness_FinalPadsTheLastBlock :
    ∀ p ∈ [(0 : Fin 129), 111, 112, 127], ∃ s : State, s.busy = false ∧ s.phase = .absorb ∧ s.bufptr = p ∧
      s.bufptr.val ≤ 127 := by
  intro p hp
  refine ⟨{ fresh with bufptr := p }, rfl, rfl, rfl, ?_⟩
  revert p
  decide +kernel

theorem witness_SequenceErrors :
    (∃ d, Instr.absorb 0x61 = .absorb d) ∧ State.reset.busy = false ∧ State.reset.phase ≠ .absorb ∧
    done.busy = false ∧ done.phase ≠ .absorb :=
  ⟨⟨0x61, rfl⟩, rfl, by decide +kernel, rfl, by decide +kernel⟩

theorem witness_ReservedCommandSetsCmderr :
    fresh.busy = false ∧ (running .load).busy = true ∧ 3 ≤ (0x03 : Byte).toNat ∧ 3 ≤ (0xFF : Byte).toNat :=
  ⟨rfl, rfl, by decide, by decide⟩

/-- At the maximum and one byte below it. -/
theorem witness_LengthOverflowIsRaised :
    (∃ s : State, s.busy = false ∧ s.phase = .absorb ∧ s.len.toNat = 2 ^ 128 - 8) ∧
    (∃ s t : State, exec (.absorb 0x61) s = .next t ∧ s.busy = false ∧ s.phase = .absorb ∧
      s.len.toNat = 2 ^ 128 - 16 ∧ s.len.toNat % 8 = 0) := by
  refine ⟨⟨{ fresh with len := maxLen }, by decide +kernel⟩, ?_⟩
  obtain ⟨t, h⟩ := exists_next
    (r := exec (.absorb 0x61) { fresh with len := maxLen - 8, bufptr := 126 }) (by decide +kernel)
  exact ⟨_, t, h, by decide +kernel⟩

/-- With `BUFPTR` 0, and one below the full buffer. -/
theorem witness_AbsorbStoresTheByte :
    (∃ s : State, s.busy = false ∧ s.phase = .absorb ∧ s.len.toNat ≠ 2 ^ 128 - 8 ∧ s.bufptr.val ≤ 127 ∧
      s.bufptr.val + 1 ≠ 128) ∧
    (∃ s : State, s.busy = false ∧ s.phase = .absorb ∧ s.len.toNat ≠ 2 ^ 128 - 8 ∧ s.bufptr.val ≤ 127 ∧
      s.bufptr.val + 1 = 128) :=
  ⟨⟨fresh, by decide +kernel⟩, ⟨{ fresh with bufptr := 127, len := 1016 }, by decide +kernel⟩⟩

theorem witness_IgnoredWrites :
    ∃ (s u : State) (a x : Byte), (Instr.wrRsvd a x = .wrRo a x ∨ Instr.wrRsvd a x = .wrRsvd a x) ∧
      s.busy = false ∧ u.busy = true ∧
      ((0x01 : Byte).toNat = 0x01 ∧ 0x40 ≤ (0x40 : Byte).toNat ∧ 0x40 ≤ (0xFF : Byte).toNat) ∧
      (0x03 ≤ (0x03 : Byte).toNat ∧ (0x3F : Byte).toNat ≤ 0x3F) :=
  ⟨fresh, running .load, 0x3F, 0x55, .inr rfl, rfl, rfl, by decide, by decide⟩

theorem witness_StatusReadNeverHolds :
    ∃ s : State, s.busy = true ∧ BusyAbsorbs s ∧ OverflowIsError s ∧ s.seqerr = true :=
  ⟨{ running .load with seqerr := true }, by decide +kernel⟩

theorem witness_ResultReads :
    done.busy = false ∧ (running .load).busy = true ∧ NoResult fresh ∧ fresh.phase ≠ .done := by
  decide +kernel

theorem witness_ZeroReads :
    done.busy = false ∧ (running .load).busy = true ∧
    (∀ a ∈ [0x00, 0x02, 0x03, 0x3F], ∀ b : Byte, b = a →
      b.toNat = 0x00 ∨ b.toNat = 0x02 ∨ 0x03 ≤ b.toNat ∧ b.toNat ≤ 0x3F) := by
  decide +kernel

theorem witness_ReadsHaveNoSideEffects :
    (∃ s t : State, exec (decodeWord (mkTxnWord false 0x40 0x00)) s = .next t ∧ s.busy = false) ∧
    (∃ s t : State, (0xFF : Byte) ≠ 0x00 ∧ (0xFF : Byte) ≠ 0x02 ∧
      exec (decodeWord (mkTxnWord true 0xFF 0x55)) s = .next t) ∧
    (∃ s : State, s.busy = false ∧ s.phase = .absorb ∧ s.bufptr.val = 125 ∧ s.len.toNat < 2 ^ 128 - 16) := by
  obtain ⟨t, h⟩ := exists_next (r := exec (decodeWord (mkTxnWord false 0x40 0x00)) done) (by decide +kernel)
  obtain ⟨u, h'⟩ := exists_next (r := exec (decodeWord (mkTxnWord true 0xFF 0x55)) done) (by decide +kernel)
  exact ⟨⟨_, t, h, rfl⟩, ⟨_, u, by decide, by decide, h'⟩, ⟨{ fresh with bufptr := 125, len := 1000 }, by decide +kernel⟩⟩

theorem witness_WindowFrame :
    (∃ s t : State, exec .final s = .next t ∧ Instr.final ≠ .init ∧ (0x40 : Byte) ≠ 0x01) ∧
    (∃ s t : State, exec .nop s = .next t ∧ Instr.nop ≠ .init ∧ Instr.nop ≠ .final ∧
      (∀ d, Instr.nop ≠ .absorb d) ∧ ∀ v, Instr.nop ≠ .cmdRsvd v) := by
  obtain ⟨t, h⟩ := exists_next (r := exec .final done) (by decide +kernel)
  obtain ⟨u, h'⟩ := exists_next (r := exec .nop fresh) (by decide +kernel)
  exact ⟨⟨_, t, h, by decide, by decide⟩, _, u, h', by decide, by decide, by simp, by simp⟩

theorem witness_ResultBufferWriters :
    ∃ s t : State, step s = .next t ∧ (t.dgst ≠ s.dgst ∨ t.hex ≠ s.hex) := by
  obtain ⟨t, h, hp⟩ := exists_next_with (r := step (running .finish))
    (p := fun t => decide (t.hex ≠ fresh.hex)) (by decide +kernel)
  exact ⟨_, t, h, .inr (of_decide_eq_true hp)⟩

theorem witness_RotateAndShiftBits : 1 ≤ 1 ∧ 63 ≤ 63 ∧ 63 < 64 := by decide

theorem witness_ChooseAndMajority : 63 < 64 := by decide

theorem witness_SigmaBits : 63 < 64 := by decide

theorem witness_LoadMicroStep : (running .load).mstep = .load := rfl

/-- At rounds 15, 16 and 79; at round 16 the four slots are 14, 9, 1 and 0. -/
theorem witness_RoundMicroStep :
    (∀ t ∈ [(15 : Fin 81), 16, 79], ∃ s : State, s.t = t ∧ s.t.val < 80 ∧ s.mstep = .round) ∧
    (14 = (16 - 2) % 16 ∧ 9 = (16 - 7) % 16 ∧ 1 = (16 - 15) % 16 ∧ 0 = (16 - 16) % 16) := by
  refine ⟨?_, by decide⟩
  intro t ht
  refine ⟨{ running .round with t := t }, rfl, ?_, rfl⟩
  revert t
  decide +kernel

theorem witness_UpdateMicroStep :
    ((blockJob .update).mstep = .update ∧ (blockJob .update).job = .block) ∧
    ((twoBlocks .update).mstep = .update ∧ (twoBlocks .update).job = .finalFirst) ∧
    ((running .update).mstep = .update ∧ (running .update).job = .finalLast) :=
  ⟨⟨rfl, rfl⟩, ⟨rfl, rfl⟩, rfl, rfl⟩

theorem witness_Pad2MicroStep : (twoBlocks .pad2).mstep = .pad2 := rfl

theorem witness_FinishMicroStep : (running .finish).mstep = .finish := rfl

theorem witness_ScheduleFromTheWindow :
    16 ≤ 16 ∧ 79 ≤ 79 ∧ ∃ (win : Vector Word 16) (b : Block), 0 < 80 ∧ WindowHolds win b 0 := by
  refine ⟨by decide, by decide, Vector.replicate 16 0, Vector.replicate 128 0x00, by decide, ?_⟩
  have h : ∀ u : Fin 16, (Vector.replicate 16 (0 : Word))[u.val] =
      scheduleWord (Vector.replicate 128 0x00) u.val := by decide +kernel
  intro u h1 h2
  have hu : u < 16 := by omega
  have h3 := h ⟨u, hu⟩
  simp only [Nat.mod_eq_of_lt hu]
  exact h3

theorem witness_EngineComputesCompress : (running .load).mstep = .load := rfl

theorem witness_JobMicroStepCounts :
    ((blockJob .load).busy = true ∧ (blockJob .load).mstep = .load) ∧
    ((running .load).busy = true ∧ (running .load).mstep = .load) ∧
    ((twoBlocks .load).busy = true ∧ (twoBlocks .load).mstep = .load) :=
  ⟨⟨rfl, rfl⟩, ⟨rfl, rfl⟩, rfl, rfl⟩

theorem witness_PaddingShape : ([] : List Byte).length + 1 + 111 + 16 = 128 := rfl

theorem witness_InitOpensTheEmptyMessage : done.busy = false := rfl

/-- After `"abc"`. -/
theorem absorbing_abc : Absorbing abc [0x61, 0x62, 0x63] where
  phase := rfl
  idle := rfl
  bytes := by decide +kernel
  len := by decide +kernel
  bufptr := by decide +kernel
  chain := rfl
  buffer := by decide +kernel

/-- With 127 bytes absorbed, and so with the buffer one byte short of full. -/
theorem absorbing_127 :
    Absorbing { fresh with bufptr := 127, len := 1016 } (List.replicate 127 0x00) where
  phase := by decide +kernel
  idle := by decide +kernel
  bytes := by decide +kernel
  len := by decide +kernel
  bufptr := by decide +kernel
  chain := by decide +kernel
  buffer := by decide +kernel

/-- For either branch. -/
theorem witness_AbsorbExtendsTheMessage :
    (∃ (s : State) (m : List Byte), Absorbing s m ∧ m.length < maxBytes ∧ (m.length + 1) % 128 ≠ 0) ∧
    (∃ (s : State) (m : List Byte), Absorbing s m ∧ m.length < maxBytes ∧ (m.length + 1) % 128 = 0) :=
  ⟨⟨_, _, absorbing_abc, by decide +kernel⟩, ⟨_, _, absorbing_127, by decide +kernel⟩⟩

theorem witness_LongestMessage : ∃ (s : State) (m : List Byte), Absorbing s m :=
  ⟨_, _, absorbing_abc⟩

/-- For a final job of one block and of two. -/
theorem witness_FinalProducesTheDigest :
    (∃ (s : State) (m : List Byte), Absorbing s m ∧ m.length % 128 ≤ 111) ∧
    (∃ (s : State) (m : List Byte), Absorbing s m ∧ ¬ m.length % 128 ≤ 111) :=
  ⟨⟨_, _, absorbing_abc, by decide +kernel⟩, ⟨_, _, absorbing_127, by decide +kernel⟩⟩

theorem witness_DigestHexSequence :
    ∃ (s : State) (m : List Byte), Invariant s ∧ m.length ≤ maxBytes ∧ s.busy = false ∧ true ∉ s.resetIn ∧
      s.pending = digestHexRequests m :=
  ⟨{ State.reset with pending := digestHexRequests [0x61, 0x62, 0x63] }, [0x61, 0x62, 0x63], by decide +kernel,
    by decide +kernel, rfl, by decide +kernel, rfl⟩

/-- The characters at the two ends of each range. -/
theorem witness_HexEncoding :
    (9 : BitVec 4).toNat ≤ 9 ∧ 10 ≤ (10 : BitVec 4).toNat ∧
    (∀ c ∈ [0x30, 0x39, 0x61, 0x66], ∀ b : Byte, b = c →
      0x30 ≤ b.toNat ∧ b.toNat ≤ 0x39 ∨ 0x61 ≤ b.toNat ∧ b.toNat ≤ 0x66) ∧
    hexEncode (Vector.replicate 64 0x00) = hexEncode (Vector.replicate 64 0x00) := by
  decide +kernel

/-- From reset and from DONE, with INIT and then a read to come. -/
theorem witness_InitIsolatesMessages :
    ∃ (s₁ s₂ t : State), s₁.busy = false ∧ s₂.busy = false ∧ s₁.pending = [.wr 0x00 0x01, .rd 0x40] ∧
      s₂.pending = s₁.pending ∧ s₂.holding = s₁.holding ∧ s₂.returned = s₁.returned ∧
      s₂.resetIn = s₁.resetIn ∧ s₂.tick = s₁.tick ∧ s₁.phase ≠ s₂.phase ∧ runSteps (1 + 1) s₁ = .next t := by
  obtain ⟨t, h⟩ := exists_next
    (r := runSteps 2 { State.reset with pending := [.wr 0x00 0x01, .rd 0x40] }) (by decide +kernel)
  exact ⟨{ State.reset with pending := [.wr 0x00 0x01, .rd 0x40] },
    { done with pending := [.wr 0x00 0x01, .rd 0x40] }, t, rfl, rfl, rfl, rfl, rfl, rfl, rfl, rfl,
    by decide +kernel, h⟩

theorem witness_StepKeepsInvariant :
    ∃ s t : State, Invariant s ∧ s.busy = true ∧ step s = .next t := by
  obtain ⟨t, h⟩ := exists_next (r := step (blockJob .update)) (by decide +kernel)
  exact ⟨_, t, by decide +kernel, rfl, h⟩

theorem witness_NoFaultUnderInvariant : Invariant (blockJob .round) := by decide +kernel

theorem witness_StepKeepsTheMessage :
    ∃ (s t : State) (m : List Byte), Invariant s ∧ Hashing s m ∧ m ≠ [] ∧ step s = .next t := by
  obtain ⟨t, h⟩ := exists_next (r := step (State.asks abc (.wr 0x02 0x64))) (by decide +kernel)
  refine ⟨_, t, [0x61, 0x62, 0x63], by decide +kernel, ?_, by decide, h⟩
  have ha := absorbing_abc
  exact ⟨ha.phase, ha.idle, ha.bytes, ha.len, ha.bufptr, ha.chain, ha.buffer⟩

/-- In ABSORB after one byte, and in DONE after INIT, FINAL and the 83 micro-steps of its job. -/
theorem witness_ReachableStates :
    (∃ (t : State) (m : List Byte),
      trackedRun 2 (State.powerUp [.wr 0x00 0x01, .wr 0x02 0x61] []) [] = some (t, m) ∧
      t.busy = false ∧ t.phase = .absorb ∧ m = [0x61]) ∧
    (∃ (t : State) (m : List Byte),
      trackedRun 85 (State.powerUp [.wr 0x00 0x01, .wr 0x00 0x02] []) [] = some (t, m) ∧ t.phase = .done) := by
  refine ⟨⟨_, _, rfl, rfl, rfl, rfl⟩, ?_⟩
  have h : ((trackedRun 85 (State.powerUp [.wr 0x00 0x01, .wr 0x00 0x02] []) []).map
      fun p => p.1.phase) = some .done := by decide +kernel
  obtain ⟨p, h1, h2⟩ := Option.map_eq_some_iff.mp h
  exact ⟨p.1, p.2, h1, h2⟩

theorem witness_InstancesAreIndependent :
    (∃ units' : List State, (0 : Nat) ≠ 1 ∧ stepUnit [State.reset, fresh] 0 = .next units') ∧
    (∃ t : State, [State.reset, fresh][0]? = some State.reset ∧ step State.reset = .next t) ∧
    (∃ units' : List State, route ⟨[0x100, 0x200]⟩ 0x1FF = some (0, 0xFF) ∧ (0 : Nat) ≠ 1 ∧
      submit ⟨[0x100, 0x200]⟩ [State.reset, fresh] ⟨false, 0x1FF, [0x00]⟩ = .next units') :=
  ⟨⟨_, by decide, rfl⟩, ⟨_, rfl, rfl⟩, ⟨_, by decide +kernel, by decide, rfl⟩⟩

/-- At both ends of the window of instance 1, and just outside every window. -/
theorem witness_AccessesReachTheirWindow :
    (Platform.mk [0x100, 0x200]).wf = true ∧ [State.reset, fresh].length = (Platform.mk [0x100, 0x200]).nInst ∧
    ([0x100, 0x200][1]? = some 0x200 ∧ 0x200 ≤ 0x200 ∧ 0x2FF < 0x200 + 256) ∧
    [State.reset, fresh][1]? = some fresh ∧ ([0x00, 0x00] : List Byte).length ≠ 1 ∧
    (∀ base ∈ (Platform.mk [0x100, 0x200]).bases, 0x300 < base ∨ base + 256 ≤ 0x300) :=
  ⟨by decide +kernel, rfl, by decide, rfl, by decide, by decide⟩

end Sys2Proof.Tests
end

section
/-! # The longest message (00_scope.md R5) -/

namespace Sys2Proof.Machine

/-! ### Offering a byte -/

/-- With room in the buffer a byte is stored, and the byte that fills the buffer starts a BLOCK job
(40_padding.md R52). -/
theorem storeByte_of_lt {s : State} {d : Byte} (hp : s.bufptr.val < 128) :
    storeByte s d =
      .next (if s.bufptr.val + 1 = 128 then (stored s d hp).startJob .block else stored s d hp) := by
  simp only [storeByte, dif_pos hp, stored]

/-- Storing a byte leaves the phase as it is. -/
theorem storeByte_phase {s t : State} {d : Byte} (h : storeByte s d = .next t) : t.phase = s.phase := by
  obtain ⟨_, ⟨_, rfl⟩ | ⟨_, rfl⟩⟩ := storeByte_cases h <;> rfl

/-- In phase ABSORB, at the maximum length, a byte raises `LengthOverflow` (40_padding.md R51). -/
theorem absorbByte_of_maxLen {s : State} {d : Byte} (hp : s.phase = .absorb) (hl : s.len = maxLen) :
    absorbByte s d = .next (s.raiseError .lengthOverflow) := by
  simp [absorbByte, hp, hl]

/-- In phase ABSORB, at any other length, a byte is stored (40_padding.md R52). -/
theorem absorbByte_of_ne_maxLen {s : State} {d : Byte} (hp : s.phase = .absorb) (hl : s.len ≠ maxLen) :
    absorbByte s d = storeByte s d := by
  simp [absorbByte, hp, hl]

/-! ### A state that has absorbed a message -/

theorem eight_mul_maxBytes : 8 * maxBytes = 2 ^ 128 - 8 := by decide +kernel

/-- Between jobs the buffer has room for a byte. -/
theorem Absorbing.bufptr_lt {s : State} {m : List Byte} (h : Absorbing s m) : s.bufptr.val < 128 := by
  have := h.bufptr
  omega

/-- `LEN` is at its maximum exactly when the message is. -/
theorem Absorbing.len_eq_maxLen_iff {s : State} {m : List Byte} (h : Absorbing s m) :
    s.len = maxLen ↔ m.length = maxBytes := by
  rw [eq_maxLen_iff, h.len, ← eight_mul_maxBytes, Nat.mul_right_inj (by decide)]

/-- After the longest message a byte raises `LengthOverflow`. -/
theorem Absorbing.exec_absorb_of_longest {s : State} {m : List Byte} {d : Byte} (h : Absorbing s m)
    (hm : m.length = maxBytes) :
    exec (.absorb d) s = .next (s.retire.raiseError .lengthOverflow) := by
  rw [exec_absorb h.idle]
  exact absorbByte_of_maxLen h.phase (h.len_eq_maxLen_iff.mpr hm)

/-- After a shorter message a byte is stored. -/
theorem Absorbing.exec_absorb_of_shorter {s : State} {m : List Byte} {d : Byte} (h : Absorbing s m)
    (hm : m.length ≠ maxBytes) : exec (.absorb d) s = storeByte s.retire d := by
  rw [exec_absorb h.idle]
  exact absorbByte_of_ne_maxLen h.phase (mt h.len_eq_maxLen_iff.mp hm)

/-- Settles O49: the length check compares `LEN`, which counts eight bits a byte, with
8 · (2^125 − 1); a byte that passes it finds room in the buffer and leaves the phase at ABSORB. -/
theorem longestMessage : Obligations.LongestMessage := by
  unfold Obligations.LongestMessage
  refine ⟨eight_mul_maxBytes, fun s m d h => ?_⟩
  by_cases hm : m.length = maxBytes
  · exact ⟨_, h.exec_absorb_of_longest hm, by simp [hm]⟩
  · obtain ⟨t, hstore⟩ : ∃ t, storeByte s.retire d = .next t :=
      ⟨_, storeByte_of_lt (s := s.retire) h.bufptr_lt⟩
    have hphase : t.phase = .absorb := (storeByte_phase hstore).trans h.phase
    exact ⟨t, (h.exec_absorb_of_shorter hm).trans hstore, by simp [hphase, hm], fun e => absurd e hm⟩

/-! ### The statement is about every length, the longest one included -/

/-- The state between jobs after the message `m`, with its unfinished block in the buffer. -/
def absorbed (m : List Byte) : State :=
  { State.reset.openMessage with
    h := hashBlocks m (m.length / 128)
    buf := blockAt m (m.length / 128)
    bufptr := ⟨m.length % 128, by omega⟩
    len := BitVec.ofNat 128 (8 * m.length) }

theorem absorbing_absorbed {m : List Byte} (hm : m.length ≤ maxBytes) : Absorbing (absorbed m) m where
  phase := rfl
  idle := rfl
  bytes := hm
  len := by
    have := eight_mul_maxBytes
    simp only [absorbed, BitVec.toNat_ofNat]
    omega
  bufptr := rfl
  chain := rfl
  buffer i _ := getElem_blockAt m _ i.val i.isLt

/-- A state that the overflow case of `longestMessage` speaks of. -/
theorem exists_absorbing_longest : ∃ (s : State) (m : List Byte), Absorbing s m ∧ m.length = maxBytes := by
  have hlength := List.length_replicate (n := maxBytes) (a := (0x00 : Byte))
  exact ⟨_, _, absorbing_absorbed hlength.le, hlength⟩

end Sys2Proof.Machine
end

section
/-! # STATUS and the writers of PHASE (10_state.md R18, R20) -/

namespace Sys2Proof.Machine

/-! ### STATUS -/

/-- The fields of the concatenation that R20 writes out. -/
theorem statusFields : ∀ (cmderr seqerr lenovf busy : Bool) (phase : BitVec 2),
    let status : Byte := (BitVec.ofBool cmderr ++ (BitVec.ofBool seqerr ++ (BitVec.ofBool lenovf ++
      (phase ++ BitVec.ofBool busy)))).setWidth 8
    status.getLsbD 0 = busy ∧ status.extractLsb' 1 2 = phase ∧ status.getLsbD 3 = lenovf ∧
      status.getLsbD 4 = seqerr ∧ status.getLsbD 5 = cmderr ∧ status.extractLsb' 6 2 = 0 := by
  decide

/-- A read of offset 0x01 is a read of STATUS (30_encoding.md R44). -/
@[simp] theorem readWindow_status (s : State) : readWindow s 0x01 = statusByte s := by
  simp [readWindow]

/-- Every write to offset 0x01 is an ignored write (43_host_interface.md R87). -/
theorem decodeWrite_status (x : Byte) : decodeWrite 0x01 x = .wrRo 0x01 x := by
  simp [decodeWrite]

/-- Settles O16: the fields of STATUS are those of the concatenation of R20, and a write to it only
completes on the bus. -/
theorem statusLayout : Obligations.StatusLayout := by
  unfold Obligations.StatusLayout
  refine ⟨fun s => ?_, by decide⟩
  obtain ⟨hbusy, hphase, hlenovf, hseqerr, hcmderr, hzero⟩ :=
    statusFields s.cmderr s.seqerr s.lenovf s.busy s.phase.code
  refine ⟨hbusy, hphase, hlenovf, hseqerr, hcmderr, hzero, readWindow_status s, fun x hb => ?_⟩
  exact ⟨(decodeWord_write 0x01 x).trans (decodeWrite_status x), exec_wrRo hb⟩

/-! ### The writers of PHASE -/

/-- The two transactions that write PHASE: INIT, and an ABSORB that fails the length check. -/
theorem Performs.phase_writers {s t : State} {i : Instr} (h : Performs s i t) (hne : t.phase ≠ s.phase) :
    s.busy = false ∧
      ((i = .init ∧ t.phase = .absorb) ∨
        (∃ d, i = .absorb d ∧ s.phase = .absorb ∧ s.len = maxLen ∧ t.phase = .error)) := by
  cases h with
  | init hb => exact ⟨hb, .inl ⟨rfl, rfl⟩⟩
  | absorbOverflow hb hp hl => exact ⟨hb, .inr ⟨_, rfl, hp, hl, rfl⟩⟩
  | finalOneBlock | finalTwoBlocks => simp at hne
  | _ => exact (hne rfl).elim

/-- A step that changes PHASE is a reset, FINISH, an INIT or an overflow. -/
theorem step_phase_writers {s t : State} (h : step s = .next t) (hne : t.phase ≠ s.phase) :
    (whoseTurn s = .reset ∧ t.phase = .idle) ∨
    (whoseTurn s = .engine ∧ s.mstep = .finish ∧ t.phase = .done) ∨
    (∃ r, whoseTurn s = .host r ∧ fetch r = .ok .init ∧ s.busy = false ∧ t.phase = .absorb) ∨
    (∃ r d, whoseTurn s = .host r ∧ fetch r = .ok (.absorb d) ∧ s.busy = false ∧
      s.phase = .absorb ∧ s.len = maxLen ∧ t.phase = .error) := by
  rcases step_cases h with
    ⟨hw, rfl⟩ | ⟨hw, -, u, hu, rfl⟩ | ⟨-, rfl⟩ | ⟨r, rest, i, hw, -, hf, he⟩
  · exact .inl ⟨hw, rfl⟩
  · rcases microStep_sequencer hu with ⟨hm, hd, -⟩ | ⟨hsame, -⟩
    · exact .inr (.inl ⟨hw, hm, hd⟩)
    · exact absurd hsame hne
  · exact absurd rfl hne
  · have hperf := (exec_performs he).phase_writers
    rw [useTurn_passReset] at hperf
    obtain ⟨hb, ⟨rfl, ht⟩ | ⟨d, rfl, hp, hl, ht⟩⟩ := hperf hne
    · exact .inr (.inr (.inl ⟨r, hw, hf, hb, ht⟩))
    · exact .inr (.inr (.inr ⟨r, d, hw, hf, hb, hp, hl, ht⟩))

/-- Settles O17: each writer by its own equation, and that there is no other by the list of all that a
step can do. -/
theorem phaseWriters : Obligations.PhaseWriters := by
  unfold Obligations.PhaseWriters
  refine ⟨⟨rfl, rfl, rfl, rfl⟩, rfl, fun s hb => ⟨_, exec_init hb, rfl⟩, fun s => rfl,
    fun s d hb hp hl => ?_, fun s t h hne => step_phase_writers h hne⟩
  exact ⟨_, (exec_absorb hb).trans (absorbByte_of_maxLen hp hl), rfl⟩

end Sys2Proof.Machine
end

section
/-! # The message schedule (41_compression.md) and the blocks of a padded message (40_padding.md) -/

namespace Sys2Proof.Machine

/-! ### The message schedule and its window (R70, R72) -/

/-- The word that step n of the schedule appends. -/
theorem getD_scheduleWords_last (b : Block) (n : Nat) :
    (scheduleWords b (n + 1)).getD (16 + n) 0 =
      expandWord ((scheduleWords b n).getD (n + 14) 0) ((scheduleWords b n).getD (n + 9) 0)
        ((scheduleWords b n).getD (n + 1) 0) ((scheduleWords b n).getD n 0) := by
  rw [scheduleWords, List.getD_append_right _ _ _ _ (length_scheduleWords b n).le, length_scheduleWords,
    Nat.sub_self, List.getD_cons_zero]

/-- Later steps of the schedule leave the words computed so far. -/
theorem getD_scheduleWords_add (b : Block) {n u : Nat} (k : Nat) (hu : u < 16 + n) :
    (scheduleWords b (n + k)).getD u 0 = (scheduleWords b n).getD u 0 := by
  induction k with
  | zero => rfl
  | succ k ih =>
    rw [← ih, ← Nat.add_assoc, scheduleWords]
    exact List.getD_append _ _ _ _ (by rw [length_scheduleWords]; omega)

/-- `W_u` is computed as soon as the schedule is long enough. -/
theorem scheduleWord_eq_getD (b : Block) {n u : Nat} (hu : u < 16 + n) (hn : n ≤ 64) :
    scheduleWord b u = (scheduleWords b n).getD u 0 := by
  have h := getD_scheduleWords_add b (64 - n) hu
  rwa [Nat.add_sub_cancel' hn] at h

/-- The first sixteen schedule words are those of the block. -/
theorem scheduleWord_block (b : Block) (j : Fin 16) : scheduleWord b j.val = blockWord b j := by
  rw [scheduleWord_eq_getD b (n := 0) (by omega) (by omega), scheduleWords,
    List.getD_eq_getElem _ _ (by simp), List.getElem_ofFn]

/-- The recurrence. -/
theorem scheduleWord_expand (b : Block) {t : Nat} (h16 : 16 ≤ t) (h80 : t < 80) :
    scheduleWord b t = expandWord (scheduleWord b (t - 2)) (scheduleWord b (t - 7))
      (scheduleWord b (t - 15)) (scheduleWord b (t - 16)) := by
  obtain ⟨n, rfl⟩ := Nat.exists_eq_add_of_le h16
  rw [scheduleWord_eq_getD b (n := n + 1) (by omega) (by omega), getD_scheduleWords_last,
    scheduleWord_eq_getD b (u := 16 + n - 2) (n := n) (by omega) (by omega),
    scheduleWord_eq_getD b (u := 16 + n - 7) (n := n) (by omega) (by omega),
    scheduleWord_eq_getD b (u := 16 + n - 15) (n := n) (by omega) (by omega),
    scheduleWord_eq_getD b (u := 16 + n - 16) (n := n) (by omega) (by omega)]
  congr 2 <;> omega

/-- `LOAD` sets the window up for round 0. -/
theorem windowHolds_load (b : Block) : WindowHolds (Vector.ofFn fun j : Fin 16 => blockWord b j) b 0 := by
  intro u hu _
  have hu : u < 16 := by omega
  simpa [Nat.mod_eq_of_lt hu] using (scheduleWord_block b ⟨u, hu⟩).symm

/-- The word that round t takes from the window is `W_t`. -/
theorem WindowHolds.windowWord_eq {win : Vector Word 16} {b : Block} {t : Nat} (h : WindowHolds win b t)
    (ht : t < 80) : windowWord win t = scheduleWord b t := by
  unfold windowWord
  split
  · next hlt => simpa [Nat.mod_eq_of_lt hlt] using h t (by omega) (by omega)
  · rw [h (t - 2) (by omega) (by omega), h (t - 7) (by omega) (by omega),
      h (t - 15) (by omega) (by omega), h (t - 16) (by omega) (by omega)]
    exact (scheduleWord_expand b (by omega) ht).symm

/-- After round t the window holds the words for round t + 1. -/
theorem WindowHolds.next {win : Vector Word 16} {b : Block} {t : Nat} (h : WindowHolds win b t)
    (ht : t < 80) : WindowHolds (windowNext win t) b (t + 1) := by
  intro u hu hu'
  unfold windowNext
  split
  · exact h u (by omega) (by omega)
  · by_cases hut : u = t
    · subst hut
      rw [Vector.getElem_set_self, h.windowWord_eq ht]
    · rw [Vector.getElem_set_ne _ _ (by omega)]
      exact h u (by omega) (by omega)

/-- One more round of the compression, with the word that the window holds (R72, R74). -/
theorem roundVars_varsAfter {hin : HashWords} {b : Block} {win : Vector Word 16} {t : Nat}
    (h : WindowHolds win b t) (ht : t < 80) :
    roundVars (varsAfter hin b t) roundConstants[t] (windowWord win t) = varsAfter hin b (t + 1) := by
  rw [h.windowWord_eq ht, varsAfter, getElem?_pos roundConstants t ht, Option.getD_some]

/-! ### The blocks of a padded message (R58) -/

/-- Byte j of the padded message, whose length field starts at byte `field`. -/
theorem getD_padMessage (m : List Byte) {j field : Nat}
    (hfield : field = m.length + 1 + zeroCount m.length) (hj : j < field + 16) :
    (padMessage m).getD j 0 =
      if j < m.length then m.getD j 0
      else if j = m.length then 0x80
      else if j < field then 0
      else lengthByte (BitVec.ofNat 128 (8 * m.length)) (j - field) := by
  split
  · exact padMessage_message m j ‹_›
  · split
    · next h => rw [h, padMessage_terminator]
    · split
      · exact padMessage_zero m j (by omega) (by omega)
      · rw [← padMessage_length m _ (by omega), ← hfield, Nat.add_sub_cancel' (by omega)]

/-- The unfinished block of the message `m`, as the buffer holds it. -/
def HoldsTail (buf : Block) (m : List Byte) : Prop :=
  ∀ i : Fin 128, i.val < m.length % 128 → buf[i.val] = m.getD (128 * (m.length / 128) + i.val) 0

/-- With room for the length field, the padded buffer is the last block (R53, R54). -/
theorem HoldsTail.putLength_padTerminator {buf : Block} {m : List Byte} (h : HoldsTail buf m)
    (hm : m.length % 128 ≤ 111) :
    putLength (padTerminator buf (m.length % 128)) (BitVec.ofNat 128 (8 * m.length)) =
      blockAt (padMessage m) (m.length / 128) := by
  apply Vector.ext
  intro i hi
  have hfield : 128 * (m.length / 128) + 112 = m.length + 1 + zeroCount m.length := by
    unfold zeroCount; omega
  rw [getElem_blockAt _ _ _ hi, getD_padMessage m hfield (by omega), getElem_putLength _ _ _ hi]
  split
  · rw [getElem_padTerminator _ _ _ hi]
    split
    · next hlt => rw [h ⟨i, hi⟩ hlt, if_pos (by omega)]
    · split
      · rw [if_neg (by omega), if_pos (by omega)]
      · rw [if_neg (by omega), if_neg (by omega), if_pos (by omega)]
  · rw [if_neg (by omega), if_neg (by omega), if_neg (by omega)]
    exact congrArg (lengthByte _) (by omega)

/-- Without that room, it is the last block but one (R53, R55). -/
theorem HoldsTail.padTerminator {buf : Block} {m : List Byte} (h : HoldsTail buf m)
    (hm : 112 ≤ m.length % 128) :
    padTerminator buf (m.length % 128) = blockAt (padMessage m) (m.length / 128) := by
  apply Vector.ext
  intro i hi
  have hfield : 128 * (m.length / 128) + 240 = m.length + 1 + zeroCount m.length := by
    unfold zeroCount; omega
  rw [getElem_blockAt _ _ _ hi, getD_padMessage m hfield (by omega), getElem_padTerminator _ _ _ hi]
  split
  · next hlt => rw [h ⟨i, hi⟩ hlt, if_pos (by omega)]
  · split
    · rw [if_neg (by omega), if_pos (by omega)]
    · rw [if_neg (by omega), if_neg (by omega), if_pos (by omega)]

/-- The block of zeros and the length field is then the last block (R56). -/
theorem putLength_zeros {m : List Byte} (hm : 112 ≤ m.length % 128) :
    putLength (Vector.replicate 128 0x00) (BitVec.ofNat 128 (8 * m.length)) =
      blockAt (padMessage m) (m.length / 128 + 1) := by
  apply Vector.ext
  intro i hi
  have hfield : 128 * (m.length / 128) + 240 = m.length + 1 + zeroCount m.length := by
    unfold zeroCount; omega
  rw [getElem_blockAt _ _ _ hi, getD_padMessage m hfield (by omega), getElem_putLength _ _ _ hi]
  split
  · rw [if_neg (by omega), if_neg (by omega), if_pos (by omega), Vector.getElem_replicate]
  · rw [if_neg (by omega), if_neg (by omega), if_neg (by omega)]
    exact congrArg (lengthByte _) (by omega)

/-- Storing byte `d` after the message `m`: up to the byte stored, the buffer holds block
`m.length / 128` of the longer message (R52). -/
theorem HoldsTail.getElem_set {buf : Block} {m : List Byte} (h : HoldsTail buf m) (d : Byte) {p i : Nat}
    (hp : p < 128) (hpm : p = m.length % 128) (hi : i ≤ p) :
    (buf.set p d)[i] = (m ++ [d]).getD (128 * (m.length / 128) + i) 0 := by
  rcases Nat.lt_or_eq_of_le hi with hlt | rfl
  · rw [Vector.getElem_set_ne _ _ (by omega), h ⟨i, by omega⟩ (by dsimp only; omega),
      List.getD_append _ _ _ _ (by omega)]
  · rw [Vector.getElem_set_self, hpm, Nat.div_add_mod, List.getD_append_right _ _ _ _ le_rfl, Nat.sub_self,
      List.getD_cons_zero]

end Sys2Proof.Machine
end

section
/-! # The invariant of R26 and of the sequencer, kept by every step -/

namespace Sys2Proof.Machine

/-! ### What a micro-step can do -/

/-- After round `T`, before the sequencer moves on. -/
def rounded (s : State) (ht : s.t.val < 80) : State :=
  { s with
    w := windowNext s.w s.t.val
    wk := roundVars s.wk roundConstants[s.t.val] (windowWord s.w s.t.val)
    t := ⟨s.t.val + 1, by omega⟩ }

/-- `Advances s t`: the micro-step that state `s` is at leaves state `t`; one constructor for each way. -/
inductive Advances (s : State) : State → Prop
  | load : s.mstep = .load → Advances s (stepLoad s)
  | round (ht : s.t.val < 80) : s.mstep = .round → s.t.val + 1 ≠ 80 → Advances s (rounded s ht)
  | lastRound (ht : s.t.val < 80) : s.mstep = .round → s.t.val + 1 = 80 →
      Advances s { rounded s ht with mstep := .update }
  | updateBlock : s.mstep = .update → s.job = .block →
      Advances s { s with h := addWords s.h s.wk, bufptr := 0, mstep := .load, busy := false }
  | updateFirst : s.mstep = .update → s.job = .finalFirst →
      Advances s { s with h := addWords s.h s.wk, mstep := .pad2 }
  | updateLast : s.mstep = .update → s.job = .finalLast →
      Advances s { s with h := addWords s.h s.wk, mstep := .finish }
  | pad2 : s.mstep = .pad2 →
      Advances s { s with
        buf := putLength (Vector.replicate 128 0x00) s.len, job := .finalLast, mstep := .load }
  | finish : s.mstep = .finish → Advances s (stepFinish s)

/-- Whatever `microStep` answers as a next state is on the list. -/
theorem microStep_advances {s t : State} (h : microStep s = .next t) : Advances s t := by
  unfold microStep at h
  split at h <;> rename_i hm
  · cases h
    exact .load hm
  · unfold stepRound at h
    split at h
    · next ht =>
      cases h
      split
      · exact .lastRound ht hm ‹_›
      · exact .round ht hm ‹_›
    · cases h
  · cases h
    cases hj : s.job
    · exact stepUpdate_block hj ▸ .updateBlock hm hj
    · exact stepUpdate_finalFirst hj ▸ .updateFirst hm hj
    · exact stepUpdate_finalLast hj ▸ .updateLast hm hj
  · cases h
    exact .pad2 hm
  · cases h
    exact .finish hm

/-! ### `LEN` -/

/-- A byte that passes the length check is counted without wrapping. -/
theorem toNat_add_eight {x : LenCount} (h8 : x.toNat % 8 = 0) (hne : x ≠ maxLen) :
    (x + 8).toNat = x.toNat + 8 := by
  have hlt := x.isLt
  have hne := mt (eq_maxLen_iff x).mpr hne
  exact len_add_eight (by omega)

/-! ### The invariant -/

/-- Between jobs the invariant is its first five items without the case of a running job. -/
theorem invariant_of_free {s : State} (hb : s.busy = false) (hidle : s.bufptr.val ≤ 127 ∧ s.mstep = .load)
    (hlen : LengthCounts s) (hov : OverflowIsError s) (hres : NoResult s) : Invariant s :=
  ⟨fun _ => hidle, hlen, hov, fun h => absurd (hb.symm.trans h) nofun, hres,
    fun h => absurd (hb.symm.trans h) nofun⟩

/-- While a job runs BUFPTR is free but for a BLOCK job, and the phase is ABSORB. -/
theorem invariant_of_busy {s : State} (hb : s.busy = true) (hphase : s.phase = .absorb)
    (h8 : s.len.toNat % 8 = 0) (hov : OverflowIsError s) (hres : NoResult s) (hseq : SequencerSound s) :
    Invariant s :=
  ⟨fun h => absurd (hb.symm.trans h) nofun, ⟨h8, fun _ h => absurd (hb.symm.trans h) nofun⟩, hov,
    fun _ => hphase, hres, hseq⟩

/-- A job that starts in phase ABSORB meets the invariant; a BLOCK job needs a full buffer. -/
theorem invariant_startJob {s : State} {j : Job} (hphase : s.phase = .absorb) (h8 : s.len.toNat % 8 = 0)
    (hov : OverflowIsError s) (hres : NoResult s)
    (hblock : j = .block → s.bufptr.val = 128 ∧ s.len.toNat / 8 % 128 = 0) :
    Invariant (s.startJob j) :=
  invariant_of_busy rfl hphase h8 hov hres fun _ => ⟨nofun, nofun, nofun, hblock⟩

/-- Every transaction keeps the invariant. -/
theorem Performs.invariant {s t : State} {i : Instr} (h : Performs s i t) (hinv : Invariant s) :
    Invariant t := by
  obtain ⟨hidle, ⟨h8, hcount⟩, hov, hbusy, hres, hseq⟩ := hinv
  cases h with
  | init hb =>
    exact invariant_of_free hb ⟨Nat.zero_le _, (hidle hb).2⟩ ⟨rfl, fun _ _ => by simp⟩ ⟨nofun, nofun⟩
      fun _ => ⟨rfl, rfl⟩
  | finalOneBlock hb hp => exact invariant_startJob hp h8 hov hres nofun
  | finalTwoBlocks hb hp => exact invariant_startJob hp h8 hov hres nofun
  | absorbOverflow hb hp =>
    exact invariant_of_free hb (hidle hb) ⟨h8, nofun⟩ ⟨fun _ => rfl, fun _ => rfl⟩
      fun _ => hres (hp ▸ nofun)
  | absorbMore hb hp hne _ h127 =>
    have hlen := toNat_add_eight h8 hne
    have hptr := hcount hp hb
    refine invariant_of_free hb ⟨?_, (hidle hb).2⟩ ⟨?_, fun _ _ => ?_⟩ hov hres
    all_goals
      simp only [stored, State.retire_len, State.retire_bufptr]
      omega
  | absorbFull hb hp hne _ h127 =>
    have hlen := toNat_add_eight h8 hne
    have hptr := hcount hp hb
    refine invariant_startJob hp ?_ hov hres fun _ => ⟨?_, ?_⟩
    all_goals
      simp only [stored, State.retire_len, State.retire_bufptr]
      omega
  | _ => exact ⟨hidle, ⟨h8, hcount⟩, hov, hbusy, hres, hseq⟩

/-- Every micro-step of a running job keeps the invariant. -/
theorem Advances.invariant {s t : State} (h : Advances s t) (hinv : Invariant s) (hb : s.busy = true) :
    Invariant t := by
  obtain ⟨-, ⟨h8, -⟩, hov, hbusy, hres, hseq⟩ := hinv
  have hphase := hbusy hb
  obtain ⟨-, hpad2, hfinish, hblock⟩ := hseq hb
  cases h with
  | load =>
    exact invariant_of_busy hb hphase h8 hov hres fun _ =>
      ⟨fun _ => Nat.zero_lt_succ _, nofun, nofun, hblock⟩
  | round ht hm hne =>
    have hlt : (rounded s ht).t.val < 80 := Nat.lt_of_le_of_ne ht hne
    exact invariant_of_busy hb hphase h8 hov hres fun _ => ⟨fun _ => hlt, hpad2, hfinish, hblock⟩
  | lastRound =>
    exact invariant_of_busy hb hphase h8 hov hres fun _ => ⟨nofun, nofun, nofun, hblock⟩
  | updateBlock _ hj =>
    exact invariant_of_free rfl ⟨Nat.zero_le _, rfl⟩ ⟨h8, fun _ _ => (hblock hj).2⟩ hov hres
  | updateFirst _ hj =>
    exact invariant_of_busy hb hphase h8 hov hres fun _ => ⟨nofun, fun _ => hj, nofun, hblock⟩
  | updateLast _ hj =>
    exact invariant_of_busy hb hphase h8 hov hres fun _ => ⟨nofun, nofun, fun _ => hj, hblock⟩
  | pad2 => exact invariant_of_busy hb hphase h8 hov hres fun _ => ⟨nofun, nofun, nofun, nofun⟩
  | finish =>
    have hlenovf : s.lenovf ≠ true := fun h => nomatch hphase.symm.trans (hov.mp h)
    exact invariant_of_free rfl ⟨Nat.zero_le _, rfl⟩ ⟨h8, nofun⟩
      ⟨fun h => absurd h hlenovf, nofun⟩ fun h => absurd rfl h

/-- The reset state meets the invariant. -/
theorem invariant_applyReset (s : State) : Invariant s.applyReset :=
  ⟨fun _ => ⟨Nat.zero_le _, rfl⟩, ⟨rfl, nofun⟩, ⟨nofun, nofun⟩, nofun, fun _ => ⟨rfl, rfl⟩, nofun⟩

/-- Every step keeps the invariant. -/
theorem step_invariant {s t : State} (hinv : Invariant s) (h : step s = .next t) : Invariant t := by
  rcases step_cases h with ⟨-, rfl⟩ | ⟨-, hb, u, hu, rfl⟩ | ⟨-, rfl⟩ | ⟨r, rest, i, -, -, -, he⟩
  · exact invariant_applyReset s
  · exact (microStep_advances hu).invariant hinv hb
  · exact hinv
  · have hturn : Invariant s.passReset.useTurn := by
      rw [useTurn_passReset]
      exact hinv
    exact (exec_performs he).invariant hturn

end Sys2Proof.Machine
end

section
/-! # The message that a state is hashing, kept by every step (R26 item 6) -/

namespace Sys2Proof.Machine

/-! ### The elements that the message concerns -/

/-- `s` without what no claim about the message speaks of: the flags SEQERR and CMDERR, the host's side
of the bus, the reset input and the schedule. -/
def State.messagePart (s : State) : State :=
  { s with
    seqerr := false, cmderr := false, pending := [], holding := false, returned := [], resetIn := [],
    slack := 0, tick := 0 }

theorem absorbing_messagePart {s : State} {m : List Byte} : Absorbing s.messagePart m ↔ Absorbing s m :=
  ⟨fun h => ⟨h.phase, h.idle, h.bytes, h.len, h.bufptr, h.chain, h.buffer⟩,
    fun h => ⟨h.phase, h.idle, h.bytes, h.len, h.bufptr, h.chain, h.buffer⟩⟩

theorem working_messagePart {s : State} {m : List Byte} : Working s.messagePart m ↔ Working s m :=
  ⟨fun h => ⟨h.phase, h.busy, h.bytes, h.len, h.fits, h.compressing⟩,
    fun h => ⟨h.phase, h.busy, h.bytes, h.len, h.fits, h.compressing⟩⟩

theorem hashing_messagePart {s : State} {m : List Byte} : Hashing s.messagePart m ↔ Hashing s m := by
  simp only [Hashing, absorbing_messagePart, working_messagePart]
  rfl

/-- A state with the same elements is hashing the same message. -/
theorem Hashing.congr {s t : State} {m : List Byte} (h : Hashing s m)
    (hpart : t.messagePart = s.messagePart) : Hashing t m :=
  hashing_messagePart.mp (hpart ▸ hashing_messagePart.mpr h)

/-! ### Which claim it is, by PHASE and BUSY -/

theorem hashing_absorbing {s : State} {m : List Byte} (hp : s.phase = .absorb) (hb : s.busy = false) :
    Hashing s m ↔ Absorbing s m := by
  simp [Hashing, hp, hb]

theorem hashing_working {s : State} {m : List Byte} (hp : s.phase = .absorb) (hb : s.busy = true) :
    Hashing s m ↔ Working s m := by
  simp [Hashing, hp, hb]

theorem hashing_done {s : State} {m : List Byte} (hp : s.phase = .done) :
    Hashing s m ↔ s.dgst = sha512 m ∧ s.hex = digestHex m := by
  simp [Hashing, hp]

theorem hashing_of_idle {s : State} {m : List Byte} (hp : s.phase = .idle) : Hashing s m := by
  simp [Hashing, hp]

theorem hashing_of_error {s : State} {m : List Byte} (hp : s.phase = .error) : Hashing s m := by
  simp [Hashing, hp]

theorem Absorbing.hashing {s : State} {m : List Byte} (h : Absorbing s m) : Hashing s m :=
  (hashing_absorbing h.phase h.idle).mpr h

theorem Working.hashing {s : State} {m : List Byte} (h : Working s m) : Hashing s m :=
  (hashing_working h.phase h.busy).mpr h

/-! ### How far the compression is, by MSTEP -/

theorem compressing_load {s : State} {m : List Byte} (hm : s.mstep = .load) :
    Compressing s m ↔ s.h = hashBlocks (padMessage m) (jobBlock m.length s.job) ∧
      s.buf = blockAt (padMessage m) (jobBlock m.length s.job) := by
  simp only [Compressing, hm]

theorem compressing_round {s : State} {m : List Byte} (hm : s.mstep = .round) :
    Compressing s m ↔ s.h = hashBlocks (padMessage m) (jobBlock m.length s.job) ∧
      s.buf = blockAt (padMessage m) (jobBlock m.length s.job) ∧
      s.wk = varsAfter s.h s.buf s.t.val ∧ WindowHolds s.w s.buf s.t.val := by
  simp only [Compressing, hm]

theorem compressing_update {s : State} {m : List Byte} (hm : s.mstep = .update) :
    Compressing s m ↔ s.h = hashBlocks (padMessage m) (jobBlock m.length s.job) ∧
      s.buf = blockAt (padMessage m) (jobBlock m.length s.job) ∧ s.wk = varsAfter s.h s.buf 80 := by
  simp only [Compressing, hm]

theorem compressing_pad2 {s : State} {m : List Byte} (hm : s.mstep = .pad2) :
    Compressing s m ↔
      s.job = .finalFirst ∧ s.h = hashBlocks (padMessage m) (jobBlock m.length s.job + 1) := by
  simp only [Compressing, hm]

theorem compressing_finish {s : State} {m : List Byte} (hm : s.mstep = .finish) :
    Compressing s m ↔
      s.job = .finalLast ∧ s.h = hashBlocks (padMessage m) (jobBlock m.length s.job + 1) := by
  simp only [Compressing, hm]

/-! ### The blocks of the final job (R57) -/

theorem jobBlock_finalLast_of_le {n : Nat} (hn : n % 128 ≤ 111) : jobBlock n .finalLast = n / 128 := by
  simp [jobBlock, blockCount, hn]

theorem jobBlock_finalLast_of_ge {n : Nat} (hn : 112 ≤ n % 128) : jobBlock n .finalLast = n / 128 + 1 := by
  have : ¬ n % 128 ≤ 111 := by omega
  simp [jobBlock, blockCount, this]

theorem jobBlock_finalLast_succ (n : Nat) : jobBlock n .finalLast + 1 = blockCount n := by
  simp only [jobBlock, blockCount]
  split <;> omega

/-! ### The transactions -/

theorem len_eq_ofNat {x : LenCount} {n : Nat} (h : x.toNat = n) : x = BitVec.ofNat 128 n := by
  rw [← h, BitVec.ofNat_toNat, BitVec.setWidth_eq]

theorem Absorbing.holdsTail {s : State} {m : List Byte} (h : Absorbing s m) : HoldsTail s.buf m := h.buffer

/-- The chaining value between jobs, as one of the padded message. -/
theorem Absorbing.chain_padMessage {s : State} {m : List Byte} (h : Absorbing s m) :
    s.h = hashBlocks (padMessage m) (m.length / 128) :=
  h.chain.trans (hashBlocks_padMessage m _ (Nat.mul_div_le _ _)).symm

/-- INIT opens the empty message (R83). -/
theorem absorbing_openMessage {s : State} (hb : s.busy = false) : Absorbing s.openMessage.retire [] where
  phase := rfl
  idle := hb
  bytes := Nat.zero_le _
  len := rfl
  bufptr := rfl
  chain := rfl
  buffer _ h := absurd h (Nat.not_lt_zero _)

/-- A job starts on its block. -/
theorem working_startJob {s : State} {m : List Byte} {j : Job} (hp : s.phase = .absorb)
    (hbytes : m.length ≤ maxBytes) (hlen : s.len.toNat = 8 * m.length) (hfits : jobFits m.length j)
    (hchain : s.h = hashBlocks (padMessage m) (jobBlock m.length j))
    (hblock : s.buf = blockAt (padMessage m) (jobBlock m.length j)) : Working (s.startJob j) m :=
  ⟨hp, rfl, hbytes, hlen, hfits, (compressing_load rfl).mpr ⟨hchain, hblock⟩⟩

/-- FINAL with room for the length field (R54). -/
theorem Absorbing.final_oneBlock {s : State} {m : List Byte} (h : Absorbing s m) (hp : s.bufptr.val ≤ 111) :
    Working
      ({ s.retire with buf := putLength (padTerminator s.buf s.bufptr.val) s.len }.startJob .finalLast) m := by
  rw [h.bufptr] at hp ⊢
  rw [len_eq_ofNat h.len, h.holdsTail.putLength_padTerminator hp]
  have hk := jobBlock_finalLast_of_le hp
  exact working_startJob h.phase h.bytes h.len trivial (hk ▸ h.chain_padMessage) (hk ▸ rfl)

/-- FINAL without that room (R55). -/
theorem Absorbing.final_twoBlocks {s : State} {m : List Byte} (h : Absorbing s m)
    (hp : 112 ≤ s.bufptr.val) :
    Working ({ s.retire with buf := padTerminator s.buf s.bufptr.val }.startJob .finalFirst) m := by
  rw [h.bufptr] at hp ⊢
  rw [h.holdsTail.padTerminator hp]
  exact working_startJob h.phase h.bytes h.len hp h.chain_padMessage rfl

/-- The length of the message with a byte that passes the length check. -/
theorem Absorbing.length_lt {s : State} {m : List Byte} (h : Absorbing s m) (hne : s.len ≠ maxLen) :
    m.length < maxBytes :=
  Nat.lt_of_le_of_ne h.bytes (mt h.len_eq_maxLen_iff.mpr hne)

/-- Its bit length. -/
theorem Absorbing.len_add_eight {s : State} {m : List Byte} (h : Absorbing s m) (hne : s.len ≠ maxLen)
    (d : Byte) : (s.len + 8).toNat = 8 * (m ++ [d]).length := by
  have hlen := h.len
  rw [toNat_add_eight (by omega) hne, List.length_append, List.length_singleton, hlen, Nat.mul_succ]

/-- A byte that does not fill the buffer is added to the message (R52). -/
theorem Absorbing.store {s : State} {m : List Byte} {d : Byte} (h : Absorbing s m) (hne : s.len ≠ maxLen)
    (hp : s.bufptr.val < 128) (h127 : s.bufptr.val < 127) :
    Absorbing (stored s.retire d hp) (m ++ [d]) := by
  have hptr := h.bufptr
  have hlength : (m ++ [d]).length = m.length + 1 := by simp
  have hdiv : (m ++ [d]).length / 128 = m.length / 128 := by omega
  have hmod : (m ++ [d]).length % 128 = m.length % 128 + 1 := by omega
  refine ⟨h.phase, h.idle, hlength ▸ h.length_lt hne, h.len_add_eight hne d, ?_, ?_, fun i hi => ?_⟩
  · exact hmod ▸ congrArg (· + 1) hptr
  · rw [hdiv, hashBlocks_append _ _ _ (Nat.mul_div_le _ _)]
    exact h.chain
  · rw [hdiv]
    exact h.holdsTail.getElem_set d hp hptr (by omega)

/-- The byte that fills the buffer is added to the message and starts the job of its last block (R52). -/
theorem Absorbing.store_full {s : State} {m : List Byte} {d : Byte} (h : Absorbing s m)
    (hne : s.len ≠ maxLen) (hp : s.bufptr.val < 128) (h127 : s.bufptr.val = 127) :
    Working ((stored s.retire d hp).startJob .block) (m ++ [d]) := by
  have hptr := h.bufptr
  have hlength : (m ++ [d]).length = m.length + 1 := by simp
  have hk : jobBlock (m ++ [d]).length .block = m.length / 128 := by simp only [jobBlock]; omega
  refine working_startJob h.phase (hlength ▸ h.length_lt hne) (h.len_add_eight hne d)
    ⟨by omega, by omega⟩ ?_ ?_
  · rw [hk, hashBlocks_padMessage _ _ (by omega), hashBlocks_append _ _ _ (Nat.mul_div_le _ _)]
    exact h.chain
  · rw [hk, blockAt_padMessage _ _ (by omega)]
    refine Vector.ext fun i hi => ?_
    rw [getElem_blockAt _ _ _ hi]
    exact h.holdsTail.getElem_set d hp hptr (by omega)

/-! ### What a transaction does to the message -/

/-- The message after transaction `i` in state `s`: INIT starts it afresh, and an accepted ABSORB adds
its byte. -/
def extended (s : State) (i : Instr) (m : List Byte) : List Byte :=
  match i with
  | .init => if s.busy then m else []
  | .absorb d => if s.busy ∨ s.phase ≠ .absorb ∨ s.len = maxLen then m else m ++ [d]
  | _ => m

theorem messageAfter_host {s : State} {r : Request} {i : Instr} (m : List Byte)
    (hw : whoseTurn s = .host r) (hf : fetch r = .ok i) : messageAfter s m = extended s i m := by
  cases i <;> simp only [messageAfter, hw, hf, extended]

/-- A transaction that holds leaves the message. -/
theorem extended_of_busy {s : State} (hb : s.busy = true) (i : Instr) (m : List Byte) :
    extended s i m = m := by
  cases i <;> simp [extended, hb]

theorem extended_init {s : State} (hb : s.busy = false) (m : List Byte) : extended s .init m = [] := by
  simp [extended, hb]

theorem extended_absorb_of_phase {s : State} (hp : s.phase ≠ .absorb) (d : Byte) (m : List Byte) :
    extended s (.absorb d) m = m := by
  simp [extended, hp]

theorem extended_absorb {s : State} (hb : s.busy = false) (hp : s.phase = .absorb) (hne : s.len ≠ maxLen)
    (d : Byte) (m : List Byte) : extended s (.absorb d) m = m ++ [d] := by
  simp [extended, hb, hp, hne]

/-- Every transaction keeps the relation to the message. -/
theorem Performs.hashing {s t : State} {i : Instr} {m : List Byte} (h : Performs s i t)
    (hh : Hashing s m) : Hashing t (extended s i m) := by
  cases h with
  | held hb => exact (extended_of_busy hb i m).symm ▸ hh.congr rfl
  | init hb => exact (extended_init hb m).symm ▸ (absorbing_openMessage hb).hashing
  | finalOneBlock hb hp hle => exact (((hashing_absorbing hp hb).mp hh).final_oneBlock hle).hashing
  | finalTwoBlocks hb hp hge => exact (((hashing_absorbing hp hb).mp hh).final_twoBlocks hge).hashing
  | absorbSequence hb hp => exact (extended_absorb_of_phase hp _ m).symm ▸ hh.congr rfl
  | absorbOverflow => exact hashing_of_error rfl
  | absorbMore hb hp hne hlt h127 =>
    rw [extended_absorb hb hp hne]
    exact (((hashing_absorbing hp hb).mp hh).store hne hlt h127).hashing
  | absorbFull hb hp hne hlt h127 =>
    rw [extended_absorb hb hp hne]
    exact (((hashing_absorbing hp hb).mp hh).store_full hne hlt h127).hashing
  | _ => exact hh.congr rfl

/-! ### The micro-steps of a job -/

/-- `LOAD` (R71). -/
theorem Working.load {s : State} {m : List Byte} (h : Working s m) (hm : s.mstep = .load) :
    Working (stepLoad s) m := by
  obtain ⟨hchain, hblock⟩ := (compressing_load hm).mp h.compressing
  exact ⟨h.phase, h.busy, h.bytes, h.len, h.fits,
    (compressing_round rfl).mpr ⟨hchain, hblock, rfl, windowHolds_load s.buf⟩⟩

/-- The working variables after `ROUND` (R72). -/
theorem Working.wk_rounded {s : State} {m : List Byte} (h : Working s m) (hm : s.mstep = .round)
    (ht : s.t.val < 80) : (rounded s ht).wk = varsAfter s.h s.buf (s.t.val + 1) := by
  obtain ⟨-, -, hwk, hwin⟩ := (compressing_round hm).mp h.compressing
  rw [← roundVars_varsAfter hwin ht, ← hwk]
  rfl

/-- `ROUND` before the last one. -/
theorem Working.round {s : State} {m : List Byte} (h : Working s m) (hm : s.mstep = .round)
    (ht : s.t.val < 80) : Working (rounded s ht) m := by
  obtain ⟨hchain, hblock, -, hwin⟩ := (compressing_round hm).mp h.compressing
  exact ⟨h.phase, h.busy, h.bytes, h.len, h.fits,
    (compressing_round (s := rounded s ht) hm).mpr ⟨hchain, hblock, h.wk_rounded hm ht, hwin.next ht⟩⟩

/-- The last `ROUND`. -/
theorem Working.lastRound {s : State} {m : List Byte} (h : Working s m) (hm : s.mstep = .round)
    (ht : s.t.val < 80) (h80 : s.t.val + 1 = 80) : Working { rounded s ht with mstep := .update } m := by
  obtain ⟨hchain, hblock, -, -⟩ := (compressing_round hm).mp h.compressing
  exact ⟨h.phase, h.busy, h.bytes, h.len, h.fits,
    (compressing_update rfl).mpr ⟨hchain, hblock, h80 ▸ h.wk_rounded hm ht⟩⟩

/-- `UPDATE` compresses the block of the job (R73, R74). -/
theorem Working.chain_update {s : State} {m : List Byte} (h : Working s m) (hm : s.mstep = .update) :
    addWords s.h s.wk = hashBlocks (padMessage m) (jobBlock m.length s.job + 1) := by
  obtain ⟨hchain, hblock, hwk⟩ := (compressing_update hm).mp h.compressing
  rw [hashBlocks, ← hchain, ← hblock, compress, hwk]

/-- `UPDATE` of a BLOCK job: the message is between jobs again. -/
theorem Working.update_block {s : State} {m : List Byte} (h : Working s m) (hm : s.mstep = .update)
    (hj : s.job = .block) :
    Absorbing { s with h := addWords s.h s.wk, bufptr := 0, mstep := .load, busy := false } m := by
  obtain ⟨hmod, hpos⟩ : jobFits m.length .block := hj ▸ h.fits
  have hk : jobBlock m.length s.job + 1 = m.length / 128 := by rw [hj, jobBlock]; omega
  have hchain := h.chain_update hm
  rw [hk, hashBlocks_padMessage _ _ (Nat.mul_div_le _ _)] at hchain
  exact ⟨h.phase, rfl, h.bytes, h.len, hmod.symm, hchain, fun i hi => by omega⟩

/-- `UPDATE` of a FINAL_FIRST job. -/
theorem Working.update_first {s : State} {m : List Byte} (h : Working s m) (hm : s.mstep = .update)
    (hj : s.job = .finalFirst) : Working { s with h := addWords s.h s.wk, mstep := .pad2 } m :=
  ⟨h.phase, h.busy, h.bytes, h.len, h.fits, (compressing_pad2 rfl).mpr ⟨hj, h.chain_update hm⟩⟩

/-- `UPDATE` of a FINAL_LAST job. -/
theorem Working.update_last {s : State} {m : List Byte} (h : Working s m) (hm : s.mstep = .update)
    (hj : s.job = .finalLast) : Working { s with h := addWords s.h s.wk, mstep := .finish } m :=
  ⟨h.phase, h.busy, h.bytes, h.len, h.fits, (compressing_finish rfl).mpr ⟨hj, h.chain_update hm⟩⟩

/-- `PAD2` (R56). -/
theorem Working.pad2 {s : State} {m : List Byte} (h : Working s m) (hm : s.mstep = .pad2) :
    Working { s with
      buf := putLength (Vector.replicate 128 0x00) s.len, job := .finalLast, mstep := .load } m := by
  obtain ⟨hj, hchain⟩ := (compressing_pad2 hm).mp h.compressing
  have hmod : jobFits m.length .finalFirst := hj ▸ h.fits
  have hk := jobBlock_finalLast_of_ge hmod
  have hblock := putLength_zeros hmod
  rw [← len_eq_ofNat h.len, ← hk] at hblock
  rw [hj, jobBlock, ← hk] at hchain
  exact ⟨h.phase, h.busy, h.bytes, h.len, trivial, (compressing_load rfl).mpr ⟨hchain, hblock⟩⟩

/-- `FINISH` (R77, R78). -/
theorem Working.finish {s : State} {m : List Byte} (h : Working s m) (hm : s.mstep = .finish) :
    (stepFinish s).dgst = sha512 m ∧ (stepFinish s).hex = digestHex m := by
  obtain ⟨hj, hchain⟩ := (compressing_finish hm).mp h.compressing
  rw [hj, jobBlock_finalLast_succ] at hchain
  have hdgst : serialize s.h = sha512 m := congrArg serialize hchain
  exact ⟨hdgst, congrArg hexEncode hdgst⟩

/-- Every micro-step of a running job keeps the relation to the message. -/
theorem Advances.hashing {s t : State} {m : List Byte} (h : Advances s t) (hw : Working s m) :
    Hashing t m := by
  cases h with
  | load hm => exact (hw.load hm).hashing
  | round ht hm => exact (hw.round hm ht).hashing
  | lastRound ht hm h80 => exact (hw.lastRound hm ht h80).hashing
  | updateBlock hm hj => exact (hw.update_block hm hj).hashing
  | updateFirst hm hj => exact (hw.update_first hm hj).hashing
  | updateLast hm hj => exact (hw.update_last hm hj).hashing
  | pad2 hm => exact (hw.pad2 hm).hashing
  | finish hm => exact (hashing_done rfl).mpr (hw.finish hm)

/-! ### Every step -/

/-- Every step from a state of the invariant keeps the relation to the message. -/
theorem step_hashing {s t : State} {m : List Byte} (hinv : Invariant s) (hh : Hashing s m)
    (h : step s = .next t) : Hashing t (messageAfter s m) := by
  rcases step_cases h with ⟨-, rfl⟩ | ⟨hw, hb, u, hu, rfl⟩ | ⟨hw, rfl⟩ | ⟨r, rest, i, hw, -, hf, he⟩
  · exact hashing_of_idle rfl
  · obtain ⟨-, -, -, habsorb, -, -⟩ := hinv
    have hpart : Hashing s.passReset m := hh.congr rfl
    have hworking := (hashing_working (s := s.passReset) (habsorb hb) hb).mp hpart
    rw [show messageAfter s m = m by simp only [messageAfter, hw]]
    exact ((microStep_advances hu).hashing hworking).congr rfl
  · rw [show messageAfter s m = m by simp only [messageAfter, hw]]
    exact hh.congr rfl
  · rw [messageAfter_host m hw hf]
    rw [useTurn_passReset] at he
    exact (exec_performs he).hashing (hh.congr rfl)

/-! ### Runs from reset -/

/-- What holds at the start of a run and is kept by every step holds at its end. -/
theorem trackedRun_induction {P : State → List Byte → Prop}
    (hstep : ∀ s t m, P s m → step s = .next t → P t (messageAfter s m)) {k : Nat} {s t : State}
    {m n : List Byte} (hP : P s m) (h : trackedRun k s m = some (t, n)) : P t n := by
  induction k generalizing s m with
  | zero =>
    cases h
    exact hP
  | succ k ih =>
    simp only [trackedRun] at h
    split at h
    · exact ih (hstep _ _ _ hP ‹_›) h
    · cases h
    · cases h

/-- The state at power-up meets the invariant. -/
theorem invariant_powerUp (accesses : List Request) (levels : List Bool) :
    Invariant (State.powerUp accesses levels) :=
  invariant_applyReset State.reset

/-- Settles O58: the invariant and the relation between the state and the message it is hashing hold at
power-up and are kept by every step; the six items are read off them. -/
theorem reachableStates : Obligations.ReachableStates := by
  unfold Obligations.ReachableStates
  intro accesses levels k t m h
  obtain ⟨hinv, hh⟩ : Invariant t ∧ Hashing t m :=
    trackedRun_induction (P := fun s m => Invariant s ∧ Hashing s m)
      (fun _ _ _ hP hs => ⟨step_invariant hP.1 hs, step_hashing hP.1 hP.2 hs⟩)
      ⟨invariant_powerUp accesses levels, hashing_of_idle rfl⟩ h
  obtain ⟨hidle, hlen, hov, hbusy, hres, -⟩ := hinv
  exact ⟨hidle, hlen, hov, hbusy, hres, fun hp => (hashing_done hp).mp hh⟩

end Sys2Proof.Machine
end

section
/-! # Reads, ignored writes and repeated DATA writes (20_memory.md R37) -/

namespace Sys2Proof.Machine

/-! ### Reads -/

theorem isWrite_decodeRead (a : Byte) : (decodeRead a).isWrite = false := by
  unfold decodeRead
  split
  · rfl
  · split
    · rfl
    · split <;> rfl

/-- A read holds, or completes with a byte for the host. -/
theorem Performs.read_cases {s t : State} {i : Instr} (h : Performs s i t) (hi : i.isWrite = false) :
    t = s.hold ∨ ∃ b, t = s.respond b := by
  cases h with
  | held => exact .inl rfl
  | status | rdDgst | rdHex | rdZero => exact .inr ⟨_, rfl⟩
  | _ => cases hi

/-- While the engine is idle a read returns the byte of the window at its offset
(30_encoding.md R44). -/
theorem exec_decodeRead {s : State} (hb : s.busy = false) (a : Byte) :
    exec (decodeRead a) s = .next (s.respond (readWindow s a)) := by
  unfold decodeRead readWindow
  split
  · rfl
  · split
    · exact exec_rdZero hb
    · split
      · exact exec_rdDgst hb
      · exact exec_rdHex hb

/-- Answering a read leaves the window as it is. -/
@[simp] theorem readWindow_respond (s : State) (b a : Byte) : readWindow (s.respond b) a = readWindow s a :=
  readWindow_congr rfl rfl a (.inr rfl)

/-! ### Ignored writes -/

/-- A write to any offset but CMD and DATA is an ignored one (30_encoding.md R44). -/
theorem decodeWrite_ignored {a : Byte} (hcmd : a ≠ 0x00) (hdata : a ≠ 0x02) (x : Byte) :
    decodeWrite a x = .wrRo a x ∨ decodeWrite a x = .wrRsvd a x := by
  unfold decodeWrite
  rw [if_neg hcmd, if_neg hdata]
  split
  · exact .inl rfl
  · split
    · exact .inr rfl
    · exact .inl rfl

/-- An ignored write holds, or completes and does no more (43_host_interface.md R87, R88). -/
theorem Performs.ignored_cases {s t : State} {i : Instr} {a x : Byte} (h : Performs s i t)
    (hi : i = .wrRo a x ∨ i = .wrRsvd a x) : t = s.hold ∨ t = s.retire := by
  rcases hi with rfl | rfl <;> cases h with
  | held => exact .inl rfl
  | _ => exact .inr rfl

/-! ### DATA writes -/

/-- A byte that passes the length check and does not fill the buffer is stored, and no job starts
(40_padding.md R52). -/
theorem exec_absorb_stored {s : State} {d : Byte} (hb : s.busy = false) (hphase : s.phase = .absorb)
    (hlen : s.len ≠ maxLen) (hp : s.bufptr.val < 128) (h127 : s.bufptr.val < 127) :
    exec (.absorb d) s = .next (stored s.retire d hp) := by
  have hnotFull : s.retire.bufptr.val + 1 ≠ 128 := by rw [State.retire_bufptr]; omega
  calc exec (.absorb d) s
    _ = absorbByte s.retire d := exec_absorb hb
    _ = storeByte s.retire d := absorbByte_of_ne_maxLen hphase hlen
    _ = .next (if _ then _ else _) := storeByte_of_lt (s := s.retire) hp
    _ = .next (stored s.retire d hp) := congrArg _ (if_neg hnotFull)

/-- Two writes of one byte, with room for both in the buffer and in `LEN`, absorb it twice. -/
theorem exec_absorb_twice {s : State} (d : Byte) (hb : s.busy = false) (hphase : s.phase = .absorb)
    (hptr : s.bufptr.val ≤ 125) (hlen : s.len.toNat < 2 ^ 128 - 16) :
    ∃ t u, exec (.absorb d) s = .next t ∧ exec (.absorb d) t = .next u ∧
      u.bufptr.val = s.bufptr.val + 2 ∧ u.len = s.len + 16 := by
  have hfirst : s.len ≠ maxLen := fun e => by rw [eq_maxLen_iff] at e; omega
  have hsecond : s.len + 8 ≠ maxLen := fun e => by
    rw [eq_maxLen_iff, len_add_eight (by omega)] at e
    omega
  have hp : s.bufptr.val < 128 := by omega
  have h127 : s.bufptr.val + 1 < 127 := by omega
  have hp' : s.bufptr.val + 1 < 128 := by omega
  exact ⟨stored s.retire d hp, stored (stored s.retire d hp).retire d hp',
    exec_absorb_stored hb hphase hfirst hp (by omega),
    exec_absorb_stored (s := stored s.retire d hp) hb hphase hsecond hp' h127,
    rfl, BitVec.add_assoc s.len 8 8⟩

/-- Settles O31: a read holds or answers, an ignored write holds or retires, and each of these updates
touches the host's side of the bus alone. -/
theorem readsHaveNoSideEffects : Obligations.ReadsHaveNoSideEffects := by
  unfold Obligations.ReadsHaveNoSideEffects
  refine ⟨fun s t a x h => ?_, fun s a x y hb => ?_, fun s t a x hcmd hdata h => ?_,
    fun s d => exec_absorb_twice d⟩
  · rw [decodeWord_read] at h
    rcases (exec_performs h).read_cases (isWrite_decodeRead a) with rfl | ⟨b, rfl⟩ <;> rfl
  · have hagain := exec_decodeRead (s := s.respond (readWindow s a)) hb a
    rw [readWindow_respond] at hagain
    rw [decodeWord_read, decodeWord_read]
    exact ⟨_, _, _, exec_decodeRead hb a, hagain, rfl, rfl⟩
  · rw [decodeWord_write] at h
    rcases (exec_performs h).ignored_cases (decodeWrite_ignored hcmd hdata x) with rfl | rfl <;> rfl

end Sys2Proof.Machine
end

section
/-! # The opcode table and the register map (30_encoding.md R44, R47) -/

namespace Sys2Proof.Machine

/-! ### Which rows match a word -/

/-- The operations of the rows that match a word. -/
def matchedOps (w : TxnWord) : List Op := (opcodeTable.filter fun r => r.matchesWord w).map Row.op

/-- A row whose mask leaves out the DATA field does not look at it. -/
theorem matchesWord_congr_data {r : Row} (hmask : r.mask.data = 0x00) (rw : Bool) (a d e : Byte) :
    r.matchesWord (mkTxnWord rw a d) = r.matchesWord (mkTxnWord rw a e) := by
  simp [Row.matchesWord, mkTxnWord_and, hmask]

/-- Only the rows that write CMD look at the DATA field. -/
theorem mask_data_eq_zero : ∀ r ∈ writeRows ++ readRows, r.mask.data = 0x00 := by decide

/-- The rows that write CMD fix the whole of RW and ADDR. -/
theorem commandRows_rw_addr : ∀ r ∈ commandRows,
    (r.mask.rw = true ∧ r.mask.addr = 0xFF) ∧ r.pattern.rw = true ∧ r.pattern.addr = 0x00 := by
  decide

/-- A row that writes CMD matches writes to CMD only. -/
theorem commandRow_matches {r : Row} (hr : r ∈ commandRows) {rw : Bool} {a d : Byte}
    (hmatch : r.matchesWord (mkTxnWord rw a d) = true) : rw = true ∧ a = 0x00 := by
  obtain ⟨⟨hmaskRw, hmaskAddr⟩, hrw, haddr⟩ := commandRows_rw_addr r hr
  have hword : mkTxnWord (rw && r.mask.rw) (a &&& r.mask.addr) (d &&& r.mask.data) = r.pattern :=
    (mkTxnWord_and rw a d r.mask).symm.trans (beq_iff_eq.mp hmatch)
  rw [hmaskRw, hmaskAddr, Bool.and_true, show (0xFF : Byte) = BitVec.allOnes 8 from rfl,
    BitVec.and_allOnes] at hword
  rw [← hword] at hrw haddr
  exact ⟨by simpa using hrw, by simpa using haddr⟩

/-! ### The DATA field matters to writes of CMD alone -/

/-- Away from writes to CMD, the DATA field has no part in which rows match. -/
theorem matchedOps_congr_data {rw : Bool} {a : Byte} (hcmd : ¬ (rw = true ∧ a = 0x00)) (d e : Byte) :
    matchedOps (mkTxnWord rw a d) = matchedOps (mkTxnWord rw a e) := by
  refine congrArg (List.map Row.op) (List.filter_congr fun r hr => ?_)
  rcases List.mem_append.mp hr with hr | hr
  · have hno (x : Byte) : r.matchesWord (mkTxnWord rw a x) = false :=
      Bool.eq_false_iff.mpr fun h => hcmd (commandRow_matches hr h)
    rw [hno d, hno e]
  · exact matchesWord_congr_data (mask_data_eq_zero r hr) rw a d e

/-- Away from writes to CMD, the DATA field has no part in which operation a word is. -/
theorem op_decodeWord_congr_data {rw : Bool} {a : Byte} (hcmd : ¬ (rw = true ∧ a = 0x00)) (d e : Byte) :
    (decodeWord (mkTxnWord rw a d)).op = (decodeWord (mkTxnWord rw a e)).op := by
  cases rw with
  | false => rw [decodeWord_read, decodeWord_read]
  | true =>
    have ha : a ≠ 0x00 := fun h => hcmd ⟨rfl, h⟩
    rw [decodeWord_write, decodeWord_write]
    unfold decodeWrite
    rw [if_neg ha, if_neg ha]
    split
    · rfl
    · split
      · rfl
      · split <;> rfl

/-! ### The table against the decoder -/

/-- Every command byte is matched by one row, that of its command (30_encoding.md R45). -/
theorem matchedOps_command : ∀ d : Byte,
    matchedOps (mkTxnWord true 0x00 d) = [(decodeWord (mkTxnWord true 0x00 d)).op] := by
  decide +kernel

/-- Every direction and offset is matched by one row, that of the register map's operation. -/
theorem matchedOps_zeroData : ∀ (rw : Bool) (a : Byte),
    matchedOps (mkTxnWord rw a 0x00) = [(decodeWord (mkTxnWord rw a 0x00)).op] := by
  decide +kernel

/-- The rows that match a word are one row, that of the operation the decoder gives. -/
theorem matchedOps_eq (w : TxnWord) : matchedOps w = [(decodeWord w).op] := by
  obtain ⟨rw, a, d, rfl⟩ : ∃ rw a d, w = mkTxnWord rw a d := ⟨_, _, _, (mkTxnWord_fields w).symm⟩
  by_cases hcmd : rw = true ∧ a = 0x00
  · obtain ⟨rfl, rfl⟩ := hcmd
    exact matchedOps_command d
  · rw [matchedOps_congr_data hcmd d 0x00, op_decodeWord_congr_data hcmd d 0x00]
    exact matchedOps_zeroData rw a

/-- Settles O5: whether a row matches depends on DATA for the writes to CMD alone, so the table is checked
over the command bytes and over the offsets, each apart from the other. -/
theorem exactlyOneTableRowMatches : Obligations.ExactlyOneTableRowMatches := by
  unfold Obligations.ExactlyOneTableRowMatches
  refine ⟨rfl, fun w => ?_, fun r hr => mask_data_eq_zero r (List.mem_append_right _ hr)⟩
  obtain ⟨r, hfilter, hop⟩ := List.map_eq_singleton_iff.mp (matchedOps_eq w)
  exact ⟨r, hfilter, hop⟩

/-! ### The register map -/

/-- CMD, DATA and the reserved offsets read zero. -/
theorem readWindow_eq_zero (s : State) {a : Byte} (hne : a ≠ 0x01) (ha : a.toNat < 0x40) :
    readWindow s a = 0x00 := by
  unfold readWindow
  rw [if_neg hne, if_pos ha]

/-- The digest window (30_encoding.md R43). -/
theorem readWindow_dgst (s : State) {a : Byte} {i : Fin 64} (ha : a.toNat = 0x40 + i.val) :
    readWindow s a = s.dgst[i.val] := by
  have hne : a ≠ 0x01 := byte_ne_of_toNat_ne (show a.toNat ≠ 1 by omega)
  have hindex : (a.extractLsb' 0 6).toNat = i.val := by
    rw [BitVec.extractLsb'_toNat, Nat.shiftRight_zero]
    omega
  unfold readWindow readDgst
  rw [if_neg hne, if_neg (by omega), if_pos (by omega)]
  simp only [hindex]

/-- The hex window (30_encoding.md R43). -/
theorem readWindow_hex (s : State) {a : Byte} {j : Fin 128} (ha : a.toNat = 0x80 + j.val) :
    readWindow s a = s.hex[j.val] := by
  have hne : a ≠ 0x01 := byte_ne_of_toNat_ne (show a.toNat ≠ 1 by omega)
  have hindex : (a.extractLsb' 0 7).toNat = j.val := by
    rw [BitVec.extractLsb'_toNat, Nat.shiftRight_zero]
    omega
  unfold readWindow readHex
  rw [if_neg hne, if_neg (by omega), if_neg (by omega)]
  simp only [hindex]

/-- A STATUS read answers in every state (43_host_interface.md R89). -/
theorem exec_decodeRead_status (s : State) :
    exec (decodeRead 0x01) s = .next (s.respond (readWindow s 0x01)) := by
  rw [readWindow_status]
  rfl

/-- A write to any offset but CMD and DATA completes and does no more (43_host_interface.md R87, R88). -/
theorem exec_decodeWrite_ignored {s : State} {a : Byte} (hb : s.busy = false) (hcmd : a ≠ 0x00)
    (hdata : a ≠ 0x02) (x : Byte) : exec (decodeWrite a x) s = .next s.retire := by
  rcases decodeWrite_ignored hcmd hdata x with h | h
  · rw [h, exec_wrRo hb]
  · rw [h, exec_wrRsvd hb]

/-- Settles O6: the read column is that of `readWindow`, range by range, and the write column that of
`decodeWrite`. -/
theorem registerMap : Obligations.RegisterMap := by
  unfold Obligations.RegisterMap
  intro s a x
  rw [decodeWord_read, decodeWord_write]
  refine ⟨?read, ?zero, ?status, fun _ => readWindow_dgst s, fun _ => readWindow_hex s, ?command, ?data,
    fun hcmd hdata hb => exec_decodeWrite_ignored hb hcmd hdata x⟩
  case read =>
    rintro (hb | rfl)
    · exact exec_decodeRead hb a
    · exact exec_decodeRead_status s
  case zero =>
    intro ha
    exact readWindow_eq_zero s (byte_ne_of_toNat_ne (show a.toNat ≠ 1 by omega)) (by omega)
  case status =>
    rintro rfl
    exact readWindow_status s
  case command =>
    rintro rfl
    rfl
  case data =>
    rintro rfl
    rfl

end Sys2Proof.Machine
end

section
/-! # The padding unit (40_padding.md) -/

namespace Sys2Proof.Machine

/-! ### DATA writes in phase ABSORB -/

/-- The length check raises `LengthOverflow` at the maximum length (R51). -/
theorem exec_absorb_overflow {s : State} {d : Byte} (hb : s.busy = false) (hphase : s.phase = .absorb)
    (hlen : s.len = maxLen) : exec (.absorb d) s = .next (s.retire.raiseError .lengthOverflow) := by
  rw [exec_absorb hb, absorbByte_of_maxLen (s := s.retire) hphase hlen]

/-- A byte that passes both checks is stored (R52). -/
theorem exec_absorb_of_ne_maxLen {s : State} {d : Byte} (hb : s.busy = false) (hphase : s.phase = .absorb)
    (hlen : s.len ≠ maxLen) : exec (.absorb d) s = storeByte s.retire d := by
  rw [exec_absorb hb, absorbByte_of_ne_maxLen (s := s.retire) hphase hlen]

/-- The byte that fills the buffer is stored and starts a BLOCK job (R52). -/
theorem exec_absorb_full {s : State} {d : Byte} (hb : s.busy = false) (hphase : s.phase = .absorb)
    (hlen : s.len ≠ maxLen) (hp : s.bufptr.val < 128) (hfull : s.bufptr.val + 1 = 128) :
    exec (.absorb d) s = .next ((stored s.retire d hp).startJob .block) := by
  rw [exec_absorb_of_ne_maxLen hb hphase hlen, storeByte_of_lt (s := s.retire) hp, State.retire_bufptr,
    if_pos hfull]

/-- Settles O25: the length check stops the byte at the maximum; any other byte that is absorbed has
been stored, and the count of a whole number of bytes does not wrap. -/
theorem lengthOverflowIsRaised : Obligations.LengthOverflowIsRaised := by
  unfold Obligations.LengthOverflowIsRaised
  intro s d hb hphase
  rw [ne_eq, ← eq_maxLen_iff]
  refine ⟨fun hmax => exec_absorb_overflow hb hphase hmax, fun hne t h => ?_⟩
  rw [exec_absorb_of_ne_maxLen hb hphase hne] at h
  have hcount (h8 : s.len.toNat % 8 = 0) : (s.len + 8).toNat = s.len.toNat + 8 := toNat_add_eight h8 hne
  obtain ⟨_, ⟨_, rfl⟩ | ⟨_, rfl⟩⟩ := storeByte_cases h
  · exact ⟨hphase, rfl, hcount⟩
  · exact ⟨hphase, rfl, hcount⟩

/-- Settles O26: the next state is `stored`, with a BLOCK job started exactly when the pointer reaches
the end of the buffer. -/
theorem absorbStoresTheByte : Obligations.AbsorbStoresTheByte := by
  unfold Obligations.AbsorbStoresTheByte
  intro s d hb hphase hlen hp
  have hne : s.len ≠ maxLen := mt (eq_maxLen_iff s.len).mp hlen
  have hroom : s.bufptr.val < 128 := by omega
  refine ⟨s.buf.set s.bufptr.val d, ⟨s.bufptr.val + 1, by omega⟩, fun i => ?byte, rfl,
    fun hmore => exec_absorb_stored hb hphase hne hroom (by dsimp only at hmore; omega),
    fun hfull => exec_absorb_full hb hphase hne hroom hfull⟩
  case byte =>
    rw [Vector.getElem_set]
    exact if_congr eq_comm rfl rfl

/-! ### FINAL in phase ABSORB -/

/-- In phase ABSORB, FINAL pads (43_host_interface.md R84). -/
theorem exec_final_absorb {s : State} (hb : s.busy = false) (hphase : s.phase = .absorb) :
    exec .final s = startFinal s.retire := by
  rw [exec_final hb, if_neg (not_not.mpr hphase)]

/-- All that changes when a transaction completes by starting a job on the block `b`. -/
theorem startJob_retire_with_buf (s : State) (b : Block) (j : Job) :
    { s.retire with buf := b }.startJob j = { s with
      buf := b
      job := j
      mstep := .load
      busy := true
      slack := Config.hostTurnsBefore s.tick
      tick := s.tick + 1
      pending := s.pending.tail
      holding := false } := rfl

/-- With room for the length field, the last block is complete (R53, R54). -/
theorem exec_final_oneBlock {s : State} (hb : s.busy = false) (hphase : s.phase = .absorb)
    (hp : s.bufptr.val ≤ 111) :
    exec .final s = .next
      ({ s.retire with buf := putLength (padTerminator s.buf s.bufptr.val) s.len }.startJob .finalLast) := by
  rw [exec_final_absorb hb hphase, startFinal]
  exact if_pos hp

/-- Without that room, the length is left to a second block (R53, R55). -/
theorem exec_final_twoBlocks {s : State} (hb : s.busy = false) (hphase : s.phase = .absorb)
    (hp : 112 ≤ s.bufptr.val) (h127 : s.bufptr.val ≤ 127) :
    exec .final s = .next
      ({ s.retire with buf := padTerminator s.buf s.bufptr.val }.startJob .finalFirst) := by
  have hnotOne : ¬ s.bufptr.val ≤ 111 := by omega
  rw [exec_final_absorb hb hphase, startFinal]
  exact (if_neg hnotOne).trans (if_pos h127)

/-- The length field overwrites zeros only: it lies above the terminator (R54). -/
theorem getElem_putLength_padTerminator (b : Block) (len : LenCount) {p i : Nat} (hp : p ≤ 111)
    (h : i < 128) :
    (putLength (padTerminator b p) len)[i] =
      if i < p then b[i] else if i = p then 0x80 else if 112 ≤ i then lengthByte len (i - 112) else 0x00 := by
  rw [getElem_putLength _ _ _ h]
  split
  · next hi => rw [getElem_padTerminator _ _ _ h, if_neg (c := 112 ≤ i) (by omega)]
  · next hi => rw [if_neg (by omega), if_neg (by omega), if_pos (by omega)]

/-- Settles O22: by whether the length field fits after the terminator (p ≤ 111). -/
theorem finalPadsTheLastBlock : Obligations.FinalPadsTheLastBlock := by
  unfold Obligations.FinalPadsTheLastBlock
  intro s hb hphase h127
  by_cases hp : s.bufptr.val ≤ 111
  · refine ⟨putLength (padTerminator s.buf s.bufptr.val) s.len, fun i => ?_, ?_⟩
    · rw [getElem_putLength_padTerminator _ _ hp i.isLt]
      simp only [hp, true_and, lengthByte]
    · rw [exec_final_oneBlock hb hphase hp, if_pos hp, startJob_retire_with_buf]
  · refine ⟨padTerminator s.buf s.bufptr.val, fun i => ?_, ?_⟩
    · rw [getElem_padTerminator _ _ _ i.isLt]
      simp only [hp, false_and, if_false]
    · rw [exec_final_twoBlocks hb hphase (by omega) h127, if_neg hp, startJob_retire_with_buf]

/-! ### The second final block -/

/-- `PAD2` as the engine takes it (R56). -/
theorem microStep_pad2 {s : State} (h : s.mstep = .pad2) : microStep s = .next (stepPad2 s) := by
  simp only [microStep, h]

/-- Settles O41: the length field in a block of zeros. -/
theorem pad2MicroStep : Obligations.Pad2MicroStep := by
  unfold Obligations.Pad2MicroStep
  intro s h
  refine ⟨putLength (Vector.replicate 128 0x00) s.len, fun i => ?_, microStep_pad2 h⟩
  rw [getElem_putLength _ _ _ i.isLt, Vector.getElem_replicate, lengthByte]

end Sys2Proof.Machine
end

section
/-! # The logical functions, bit by bit (41_compression.md R60 to R67) -/

namespace Sys2Proof.Machine

/-! ### Rotation and shift -/

/-- Bit i of a rotation (R60). -/
theorem getLsbD_rotr (x : Word) {n i : Nat} (hn : n < 64) (hi : i < 64) :
    (rotr x n).getLsbD i = x.getLsbD ((i + n) % 64) := by
  rw [rotr, BitVec.getLsbD_or, BitVec.getLsbD_ushiftRight, BitVec.getLsbD_shiftLeft]
  by_cases hlow : i + n < 64
  · rw [Nat.mod_eq_of_lt hlow, Nat.add_comm n i]
    simp [show i < 64 - n by omega]
  · rw [BitVec.getLsbD_of_ge x (n + i) (by omega), show (i + n) % 64 = i - (64 - n) by omega]
    simp [hi, show ¬ i < 64 - n by omega]

/-- Bit i of a shift: past the top of the word, `getLsbD` reads zeros (R61). -/
@[simp] theorem getLsbD_shr (x : Word) (n i : Nat) : (shr x n).getLsbD i = x.getLsbD (i + n) := by
  rw [shr, BitVec.getLsbD_ushiftRight, Nat.add_comm]

/-- Settles O34: a bit of the rotation comes from the part shifted down or from the part shifted up. -/
theorem rotateAndShiftBits : Obligations.RotateAndShiftBits := by
  unfold Obligations.RotateAndShiftBits
  refine ⟨fun x n i _ hn hi => ⟨getLsbD_rotr x (by omega) hi, ?_⟩, by decide, by decide, by decide⟩
  rw [getLsbD_shr]
  by_cases hlow : i + n < 64
  · simp [hlow]
  · simp [hlow, BitVec.getLsbD_of_ge x (i + n) (by omega)]

/-! ### Choice and majority -/

/-- Each bit of x chooses the bit of y or of z (R62). -/
theorem getLsbD_ch (x y z : Word) {i : Nat} (hi : i < 64) :
    (ch x y z).getLsbD i = if x.getLsbD i then y.getLsbD i else z.getLsbD i := by
  simp only [ch, BitVec.getLsbD_xor, BitVec.getLsbD_and, BitVec.getLsbD_not, hi]
  cases x.getLsbD i <;> simp

/-- Each bit of `Maj` is set when two bits or all three are (R63). -/
theorem getLsbD_maj (x y z : Word) (i : Nat) :
    (maj x y z).getLsbD i =
      decide (2 ≤ (x.getLsbD i).toNat + (y.getLsbD i).toNat + (z.getLsbD i).toNat) := by
  have hbits : ∀ a b c : Bool, (a && b ^^ a && c ^^ b && c) = decide (2 ≤ a.toNat + b.toNat + c.toNat) := by
    decide
  simpa only [maj, getLsbD_xor3, BitVec.getLsbD_and] using hbits _ _ _

/-- Settles O35: bit by bit, and then the corner cases by the bits. -/
theorem chooseAndMajority : Obligations.ChooseAndMajority := by
  unfold Obligations.ChooseAndMajority
  have hzero (i : Nat) : (0 : Word).getLsbD i = false := BitVec.getLsbD_zero
  refine ⟨fun x y z i hi => ⟨getLsbD_ch x y z hi, getLsbD_maj x y z i⟩, fun y z => ⟨?zeros, ?ones⟩,
    fun x z => ?equal⟩ <;> refine BitVec.eq_of_getLsbD_eq fun i hi => ?_
  case zeros => simp only [getLsbD_ch _ _ _ hi, hzero, Bool.false_eq_true, if_false]
  case ones => simp only [getLsbD_ch _ _ _ hi, BitVec.getLsbD_not, hi, hzero, decide_true, Bool.not_false,
    Bool.and_self, if_true]
  case equal =>
    rw [getLsbD_maj]
    cases x.getLsbD i <;> cases z.getLsbD i <;> rfl

/-! ### The sigma functions -/

/-- Settles O36: the exclusive or of three rotations, or of two and a shift, bit by bit. -/
theorem sigmaBits : Obligations.SigmaBits := by
  unfold Obligations.SigmaBits
  intro x i hi
  have hrot {n : Nat} (hn : n < 64) : (rotr x n).getLsbD i = x.getLsbD ((i + n) % 64) :=
    getLsbD_rotr x hn hi
  simp [bigSigma0, bigSigma1, smallSigma0, smallSigma1, hrot]

end Sys2Proof.Machine
end

section
/-! # The round constants and the initial hash value (41_compression.md R68, R69) -/

namespace Sys2Proof.Machine

/-! ### The first eighty primes -/

/-- The primes below 410. -/
def firstPrimes : List Nat :=
  [2, 3, 5, 7, 11, 13, 17, 19, 23, 29, 31, 37, 41, 43, 47, 53, 59, 61, 67, 71,
    73, 79, 83, 89, 97, 101, 103, 107, 109, 113, 127, 131, 137, 139, 149, 151, 157, 163, 167, 173,
    179, 181, 191, 193, 197, 199, 211, 223, 227, 229, 233, 239, 241, 251, 257, 263, 269, 271, 277, 281,
    283, 293, 307, 311, 313, 317, 331, 337, 347, 349, 353, 359, 367, 373, 379, 383, 389, 397, 401, 409]

/-- Below 21² = 441, trial division by the numbers below 21 decides primality. -/
theorem prime_iff_trialDivision {p : Nat} (hp : p < 441) :
    p.Prime ↔ 2 ≤ p ∧ ∀ m ∈ List.range 21, 2 ≤ m → m < p → ¬ m ∣ p := by
  constructor
  · intro h
    exact ⟨h.two_le, fun m _ hm hmp hdvd => (h.eq_one_or_self_of_dvd m hdvd).elim (by omega) (by omega)⟩
  · rintro ⟨h2, htrial⟩
    refine Nat.prime_def_le_sqrt.mpr ⟨h2, fun m hm hsqrt => htrial m (List.mem_range.mpr ?_) hm ?_⟩
    · exact hsqrt.trans_lt (Nat.sqrt_lt.mpr hp)
    · exact hsqrt.trans_lt (Nat.sqrt_lt_self h2)

/-- The list holds the primes below 410 and nothing else. -/
theorem filter_prime_range : ((List.range 410).filter fun p => decide p.Prime) = firstPrimes := by
  have htrial : ∀ p ∈ List.range 410, decide p.Prime =
      decide (2 ≤ p ∧ ∀ m ∈ List.range 21, 2 ≤ m → m < p → ¬ m ∣ p) := fun p hp =>
    decide_eq_decide.mpr (prime_iff_trialDivision ((List.mem_range.mp hp).trans (by decide)))
  rw [List.filter_congr htrial]
  decide +kernel

/-! ### Roots and their fractional parts -/

/-- The candidate for `floor(2^64 · p^(1/k))`: the integer part of the root, then `c` as the first 64 bits
of its fractional part. -/
def scaledRoot (k p : Nat) (c : Word) : Nat := Nat.nthRoot k p * 2 ^ 64 + c.toNat

/-- The low 64 bits of the candidate are the fractional part put in. -/
theorem scaledRoot_mod (k p : Nat) (c : Word) : scaledRoot k p c % 2 ^ 64 = c.toNat := by
  rw [scaledRoot, Nat.mul_add_mod_self_right, Nat.mod_eq_of_lt c.isLt]

/-- With `K[t]` as its fractional part, the candidate is the cube root of the t-th prime (R68). -/
theorem scaledRoot_roundConstants : ∀ t : Fin 80,
    scaledRoot 3 (firstPrimes.getD t.val 0) roundConstants[t.val] ^ 3 ≤ firstPrimes.getD t.val 0 * 2 ^ 192 ∧
    firstPrimes.getD t.val 0 * 2 ^ 192 <
      (scaledRoot 3 (firstPrimes.getD t.val 0) roundConstants[t.val] + 1) ^ 3 := by
  decide +kernel

/-- With `IV[i]` as its fractional part, the candidate is the square root of the i-th prime (R69). -/
theorem scaledRoot_iv : ∀ i : Fin 8,
    scaledRoot 2 (firstPrimes.getD i.val 0) iv[i.val] ^ 2 ≤ firstPrimes.getD i.val 0 * 2 ^ 128 ∧
    firstPrimes.getD i.val 0 * 2 ^ 128 <
      (scaledRoot 2 (firstPrimes.getD i.val 0) iv[i.val] + 1) ^ 2 := by
  decide +kernel

/-- Settles O37: the root of each prime is its integer part with the constant as its fractional part. -/
theorem constantsAreRootsOfPrimes : Obligations.ConstantsAreRootsOfPrimes := by
  unfold Obligations.ConstantsAreRootsOfPrimes
  rw [filter_prime_range]
  refine ⟨rfl, fun t => ?_, fun i => ?_⟩
  · obtain ⟨hle, hlt⟩ := scaledRoot_roundConstants t
    exact ⟨_, hle, hlt, (scaledRoot_mod ..).symm⟩
  · obtain ⟨hle, hlt⟩ := scaledRoot_iv i
    exact ⟨_, hle, hlt, (scaledRoot_mod ..).symm⟩

end Sys2Proof.Machine
end

section
/-! # The micro-steps of the compression, and the whole of it (41_compression.md R70 to R74) -/

namespace Sys2Proof.Machine

/-! ### LOAD, ROUND and UPDATE -/

/-- `LOAD` as the engine takes it (R71). -/
theorem microStep_load {s : State} (h : s.mstep = .load) : microStep s = .next (stepLoad s) := by
  simp only [microStep, h]

/-- `ROUND` as the engine takes it: the round, and the sequencer after it (R72). -/
theorem microStep_round {s : State} (h : s.mstep = .round) (ht : s.t.val < 80) :
    microStep s =
      .next { rounded s ht with mstep := if s.t.val + 1 = 80 then .update else .round } := by
  simp only [microStep, stepRound, h, dif_pos ht]
  rfl

/-- `UPDATE` as the engine takes it (R73). -/
theorem microStep_update {s : State} (h : s.mstep = .update) : microStep s = .next (stepUpdate s) := by
  simp only [microStep, h]

/-- Whatever the job, `UPDATE` adds the working variables to `H` and leaves `BUF` and `LEN`. -/
theorem stepUpdate_h_buf_len (s : State) :
    (stepUpdate s).h = addWords s.h s.wk ∧ (stepUpdate s).buf = s.buf ∧ (stepUpdate s).len = s.len := by
  unfold stepUpdate
  cases s.job <;> exact ⟨rfl, rfl, rfl⟩

/-- For t < 16 the word of the round stands in slot t, and the window stays. -/
theorem window_of_lt (win : Vector Word 16) {t : Nat} (h : t < 16) :
    windowWord win t = win[t] ∧ windowNext win t = win :=
  ⟨dif_pos h, if_pos h⟩

/-- For t ≥ 16 the word of the round goes to slot `t mod 16`, and the other slots stay. -/
theorem getElem_windowNext (win : Vector Word 16) {t i : Nat} (ht : 16 ≤ t) (hi : i < 16) :
    (windowNext win t)[i] = if i = t % 16 then windowWord win t else win[i] := by
  unfold windowNext
  rw [getElem_congr_coll (if_neg (not_lt.mpr ht)), Vector.getElem_set]
  exact if_congr eq_comm rfl rfl

/-- Settles O38: slot j of the window is schedule word j of the block. -/
theorem loadMicroStep : Obligations.LoadMicroStep := by
  unfold Obligations.LoadMicroStep
  intro s h
  refine ⟨Vector.ofFn fun j : Fin 16 => blockWord s.buf j, fun j => ?_, microStep_load h⟩
  rw [Vector.getElem_ofFn, blockWord]

/-- Settles O39: by whether the word of the round comes from the block or from the recurrence. -/
theorem roundMicroStep : Obligations.RoundMicroStep := by
  unfold Obligations.RoundMicroStep
  intro s ht h
  refine ⟨windowWord s.w s.t.val, windowNext s.w s.t.val, ⟨s.t.val + 1, by omega⟩,
    fun hlt => window_of_lt s.w hlt, fun hge i2 i7 i15 i16 h2 h7 h15 h16 => ⟨?word, fun i => ?slot⟩, rfl,
    microStep_round h ht⟩
  case word =>
    simp only [h2, h7, h15, h16]
    exact dif_neg (not_lt.mpr hge)
  case slot => exact getElem_windowNext s.w hge i.isLt

/-- Settles O40: the feed-forward word by word, and the sequencer by `JOB`. -/
theorem updateMicroStep : Obligations.UpdateMicroStep := by
  unfold Obligations.UpdateMicroStep
  intro s h
  rw [microStep_update h]
  refine ⟨addWords s.h s.wk, fun i => ?_, fun hj => ?_, fun hj => ?_, fun hj => ?_⟩
  · rw [addWords, Vector.getElem_ofFn]
  · rw [stepUpdate_block hj]
  · rw [stepUpdate_finalFirst hj]
  · rw [stepUpdate_finalLast hj]

/-! ### The schedule from the window -/

/-- A block of zeros has a schedule of zeros: the recurrence of four zeros is zero. -/
theorem scheduleWords_zeros (n : Nat) :
    scheduleWords (Vector.replicate 128 0x00) n = List.replicate (16 + n) 0 := by
  induction n with
  | zero => decide +kernel
  | succ n ih =>
    simp only [scheduleWords, ih, ← Nat.add_assoc, List.replicate_succ', List.getD_eq_getElem?_getD,
      List.getElem?_getD_replicate_default_eq]
    rfl

/-- Settles O43: the words of the block, the recurrence, the window before and after each round, and the
block of zeros. -/
theorem scheduleFromTheWindow : Obligations.ScheduleFromTheWindow := by
  unfold Obligations.ScheduleFromTheWindow
  refine ⟨scheduleWord_block, fun b t h16 h79 => scheduleWord_expand b h16 (by omega), windowHolds_load,
    fun win b t ht h => ⟨h.windowWord_eq ht, h.next ht⟩, fun t => ?zeros⟩
  case zeros =>
    rw [scheduleWord, scheduleWords_zeros, List.getD_eq_getElem?_getD,
      List.getElem?_getD_replicate_default_eq]

/-! ### Compress -/

/-- State `s`, at `LOAD`, after that micro-step and `n` rounds that leave the window `win` (R74). -/
def afterRounds (s : State) (win : Vector Word 16) (n : Nat) (hn : n < 81) : State :=
  { s with
    w := win
    wk := varsAfter s.h s.buf n
    t := ⟨n, hn⟩
    mstep := if n = 80 then .update else .round }

/-- One more round, on a window that holds the schedule. -/
theorem microStep_afterRounds (s : State) {win : Vector Word 16} {n : Nat} (h : WindowHolds win s.buf n)
    (hn : n < 80) :
    microStep (afterRounds s win n (by omega)) =
      .next (afterRounds s (windowNext win n) (n + 1) (by omega)) := by
  rw [microStep_round (if_neg hn.ne) hn]
  simp only [afterRounds, ← roundVars_varsAfter h hn]
  rfl

/-- `LOAD` and n rounds, by induction on n: the window holds the schedule all along. -/
theorem microRun_rounds {s : State} (h : s.mstep = .load) {n : Nat} (hn : n < 81) :
    ∃ win, WindowHolds win s.buf n ∧ microRun (1 + n) s = .next (afterRounds s win n hn) := by
  induction n with
  | zero =>
    refine ⟨_, windowHolds_load s.buf, ?_⟩
    simp only [microRun, microStep_load h]
    rfl
  | succ n ih =>
    obtain ⟨win, hwin, hrun⟩ := ih (by omega)
    refine ⟨windowNext win n, hwin.next (by omega), ?_⟩
    rw [← Nat.add_assoc, microRun_add 1 hrun]
    simp only [microRun, microStep_afterRounds s hwin (by omega : n < 80)]

/-- Settles O44: `LOAD` and the rounds leave the working variables of the schedule reading, and `UPDATE`
adds them to `H`. -/
theorem engineComputesCompress : Obligations.EngineComputesCompress := by
  unfold Obligations.EngineComputesCompress
  intro s h
  obtain ⟨win, -, hrun⟩ := microRun_rounds h (n := 80) (by decide)
  refine ⟨stepUpdate (afterRounds s win 80 (by decide)), ?_, stepUpdate_h_buf_len _⟩
  rw [show 82 = (1 + 80) + 1 from rfl, microRun_add 1 hrun]
  simp only [microRun, microStep_update (s := afterRounds s win 80 (by decide)) rfl]

end Sys2Proof.Machine
end

section
/-! # FINISH and the hex encoder (42_finalization_hex.md R77 to R81) -/

namespace Sys2Proof.Machine

/-! ### The characters (R79) -/

/-- `hexchar(n)` is `0x30 + n` up to 9 and `0x57 + n` above. -/
theorem hexchar_toNat (n : BitVec 4) :
    (hexchar n).toNat = if n.toNat ≤ 9 then 0x30 + n.toNat else 0x57 + n.toNat := by
  have := n.isLt
  unfold hexchar
  split <;> simp only [BitVec.toNat_add, BitVec.toNat_setWidth, BitVec.reduceToNat] <;> omega

/-- The codes stand in the order of the nibbles. -/
theorem hexchar_lt_hexchar_iff (m n : BitVec 4) :
    m.toNat < n.toNat ↔ (hexchar m).toNat < (hexchar n).toNat := by
  rw [hexchar_toNat, hexchar_toNat]
  split <;> split <;> omega

/-- The characters up to `9` are those of the nibbles up to 9. -/
theorem hexchar_le_iff (n : BitVec 4) : (hexchar n).toNat ≤ 0x39 ↔ n.toNat ≤ 9 := by
  rw [hexchar_toNat]
  split <;> omega

/-- `val(c)` takes off what `hexchar` adds (R81). -/
theorem hexVal_hexchar (n : BitVec 4) : hexVal (hexchar n) = n.setWidth 8 := by
  simp only [hexVal, hexchar_le_iff]
  split
  next h => rw [hexchar, if_pos h, add_sub_cancel_left]
  next h => rw [hexchar, if_neg h, add_sub_cancel_left]

/-- The characters `0`–`9` and `a`–`f`. -/
def IsHexCharacter (c : Byte) : Prop :=
  0x30 ≤ c.toNat ∧ c.toNat ≤ 0x39 ∨ 0x61 ≤ c.toNat ∧ c.toNat ≤ 0x66

theorem isHexCharacter_hexchar (n : BitVec 4) : IsHexCharacter (hexchar n) := by
  have := n.isLt
  rw [IsHexCharacter, hexchar_toNat]
  split <;> omega

/-- Every character `0`–`9`, `a`–`f` belongs to a nibble: its code less `0x30`, or less `0x57`. -/
theorem IsHexCharacter.exists_hexchar {c : Byte} (h : IsHexCharacter c) : ∃ n, hexchar n = c := by
  obtain ⟨hlo, hhi⟩ | ⟨hlo, hhi⟩ := h
  · refine ⟨BitVec.ofNatLT (c.toNat - 0x30) (by omega), BitVec.eq_of_toNat_eq ?_⟩
    rw [hexchar_toNat, BitVec.toNat_ofNatLT, if_pos (by omega)]
    omega
  · refine ⟨BitVec.ofNatLT (c.toNat - 0x57) (by omega), BitVec.eq_of_toNat_eq ?_⟩
    rw [hexchar_toNat, BitVec.toNat_ofNatLT, if_neg (by omega)]
    omega

/-! ### A byte and its two nibbles -/

/-- The two nibbles of a byte, put together. -/
theorem extract_high_append_extract_low (b : Byte) : b.extractLsb' 4 4 ++ b.extractLsb' 0 4 = b := by
  rw [BitVec.extractLsb'_append_extractLsb'_eq_extractLsb' (by decide), BitVec.extractLsb'_eq_self]

/-- `16 · val(c) + val(c')` of the characters of two nibbles is the byte they make up. -/
theorem sixteen_mul_hexVal_add (m n : BitVec 4) :
    16 * hexVal (hexchar m) + hexVal (hexchar n) = (m ++ n : Byte) := by
  have := m.isLt
  have := n.isLt
  rw [hexVal_hexchar, hexVal_hexchar]
  apply BitVec.eq_of_toNat_eq
  rw [BitVec.toNat_append, ← Nat.shiftLeft_add_eq_or_of_lt n.isLt, Nat.shiftLeft_eq]
  simp only [BitVec.toNat_add, BitVec.toNat_mul, BitVec.toNat_setWidth, BitVec.reduceToNat]
  omega

/-! ### The encoding and its inverse (R80, R81) -/

/-- The high nibble of byte i gives character 2i. -/
theorem getElem_hexEncode_even (d : Vector Byte 64) {i : Nat} (hi : i < 64) :
    (hexEncode d)[2 * i] = hexchar (d[i].extractLsb' 4 4) := by
  simp [getElem_hexEncode, hexOfByte]

/-- The low nibble of byte i gives character 2i + 1. -/
theorem getElem_hexEncode_odd (d : Vector Byte 64) {i : Nat} (hi : i < 64) :
    (hexEncode d)[2 * i + 1] = hexchar (d[i].extractLsb' 0 4) := by
  simp [getElem_hexEncode, hexOfByte, Nat.add_mod, show (2 * i + 1) / 2 = i by omega]

theorem getElem_hexDecode (x : Vector Byte 128) {i : Nat} (hi : i < 64) :
    (hexDecode x)[i] = 16 * hexVal x[2 * i] + hexVal x[2 * i + 1] := by
  simp [hexDecode]

theorem hexDecode_hexEncode (d : Vector Byte 64) : hexDecode (hexEncode d) = d := by
  ext i hi : 1
  rw [getElem_hexDecode _ hi, getElem_hexEncode_even d hi, getElem_hexEncode_odd d hi,
    sixteen_mul_hexVal_add, extract_high_append_extract_low]

/-- Two hex characters decode to a byte whose nibbles they are. -/
theorem getElem_hexDecode_nibbles {x : Vector Byte 128} {i : Nat} (hi : i < 64)
    (hhigh : IsHexCharacter x[2 * i]) (hlow : IsHexCharacter x[2 * i + 1]) :
    hexchar ((hexDecode x)[i].extractLsb' 4 4) = x[2 * i] ∧
      hexchar ((hexDecode x)[i].extractLsb' 0 4) = x[2 * i + 1] := by
  obtain ⟨m, hm⟩ := hhigh.exists_hexchar
  obtain ⟨n, hn⟩ := hlow.exists_hexchar
  rw [getElem_hexDecode x hi, ← hm, ← hn, sixteen_mul_hexVal_add]
  exact ⟨congrArg hexchar BitVec.extractLsb'_append_eq_left,
    congrArg hexchar BitVec.extractLsb'_append_eq_right⟩

/-- On a string of hex characters the decoder is the inverse on the other side too, so the encoding
reaches it. -/
theorem hexEncode_hexDecode {x : Vector Byte 128} (h : ∀ j : Fin 128, IsHexCharacter x[j.val]) :
    hexEncode (hexDecode x) = x := by
  ext j hj : 1
  obtain ⟨i, rfl | rfl⟩ := Nat.even_or_odd' j
  all_goals
    have hi : i < 64 := by omega
    obtain ⟨hhigh, hlow⟩ := getElem_hexDecode_nibbles hi (h ⟨2 * i, by omega⟩) (h ⟨2 * i + 1, by omega⟩)
  · rw [getElem_hexEncode_even _ hi, hhigh]
  · rw [getElem_hexEncode_odd _ hi, hlow]

/-- Every character of an encoding is a hex character. -/
theorem isHexCharacter_hexEncode (d : Vector Byte 64) (j : Fin 128) :
    IsHexCharacter (hexEncode d)[j.val] := by
  rw [getElem_hexEncode d j j.isLt]
  exact isHexCharacter_hexchar _

/-- Settles O52: the codes give the order and the characters, and the decoder, an inverse on both sides,
gives injectivity and the image. -/
theorem hexEncoding : Obligations.HexEncoding := by
  unfold Obligations.HexEncoding
  refine ⟨fun n => ⟨fun h => ?digit, fun h => ?letter⟩,
    fun d i => ⟨getElem_hexEncode_even d i.isLt, getElem_hexEncode_odd d i.isLt⟩,
    hexchar_lt_hexchar_iff, hexDecode_hexEncode,
    fun _ _ h => Function.LeftInverse.injective hexDecode_hexEncode h,
    fun x => ⟨fun h => ⟨hexDecode x, hexEncode_hexDecode h⟩, ?image⟩⟩
  case digit => rw [hexchar_toNat, if_pos h]
  case letter =>
    rw [hexchar_toNat, if_neg (by omega)]
    omega
  case image =>
    rintro ⟨d, rfl⟩
    exact isHexCharacter_hexEncode d

/-! ### FINISH (R77) -/

/-- `FINISH` as the engine takes it. -/
theorem microStep_finish {s : State} (h : s.mstep = .finish) : microStep s = .next (stepFinish s) := by
  simp only [microStep, h]

/-- Byte 8i + j of the serialised hash state is byte j of word i, the most significant first
(20_memory.md R33). -/
theorem getElem_serialize_word (h : HashWords) {i j : Nat} (hi : i < 8) (hj : j < 8) :
    (serialize h)[8 * i + j] = h[i].extractLsb' (56 - 8 * j) 8 := by
  have hword : (8 * i + j) / 8 = i := by omega
  have hbyte : (8 * i + j) % 8 = j := by omega
  simp only [getElem_serialize, wordByte, hword, hbyte]

/-- Settles O42: DGST gets the serialised hash state, and HEX its encoding. -/
theorem finishMicroStep : Obligations.FinishMicroStep := by
  unfold Obligations.FinishMicroStep
  intro s h
  exact ⟨serialize s.h, hexEncode (serialize s.h), fun i j => getElem_serialize_word s.h i.isLt j.isLt,
    fun i => ⟨getElem_hexEncode_even _ i.isLt, getElem_hexEncode_odd _ i.isLt⟩, microStep_finish h⟩

end Sys2Proof.Machine
end

section
/-! # The transactions (43_host_interface.md R82, R83, R85, R87 to R92) -/

namespace Sys2Proof.Machine

/-! ### Decoding by the value of the offset and of the command -/

/-- From 3 on, a byte is no command value, and no offset of CMD, STATUS or DATA. -/
theorem byte_ne_of_three_le {a : Byte} (ha : 3 ≤ a.toNat) : a ≠ 0x00 ∧ a ≠ 0x01 ∧ a ≠ 0x02 :=
  ⟨byte_ne_of_toNat_ne (show a.toNat ≠ 0 by omega), byte_ne_of_toNat_ne (show a.toNat ≠ 1 by omega),
    byte_ne_of_toNat_ne (show a.toNat ≠ 2 by omega)⟩

/-- The reserved command values (R85). -/
theorem decodeCommand_reserved {v : Byte} (hv : 3 ≤ v.toNat) : decodeCommand v = .cmdRsvd v := by
  obtain ⟨hnop, hinit, hfinal⟩ := byte_ne_of_three_le hv
  rw [decodeCommand, if_neg hnop, if_neg hinit, if_neg hfinal]

/-- The read-only offsets (R87): STATUS and the two result windows. -/
theorem decodeWrite_readOnly {a : Byte} (ha : a.toNat = 0x01 ∨ 0x40 ≤ a.toNat) (x : Byte) :
    decodeWrite a x = .wrRo a x := by
  rcases ha with hone | hwindow
  · obtain rfl : a = 0x01 := BitVec.eq_of_toNat_eq hone
    exact decodeWrite_status x
  · obtain ⟨hcmd, hstatus, hdata⟩ := byte_ne_of_three_le (a := a) (by omega)
    rw [decodeWrite, if_neg hcmd, if_neg hstatus, if_neg hdata, if_neg (by omega)]

/-- The reserved offsets (R88). -/
theorem decodeWrite_reserved {a : Byte} (hlow : 0x03 ≤ a.toNat) (hhigh : a.toNat ≤ 0x3F) (x : Byte) :
    decodeWrite a x = .wrRsvd a x := by
  obtain ⟨hcmd, hstatus, hdata⟩ := byte_ne_of_three_le hlow
  rw [decodeWrite, if_neg hcmd, if_neg hstatus, if_neg hdata, if_pos (by omega)]

/-- Below the digest window only STATUS does not read zero (R92). -/
theorem decodeRead_zero {a : Byte} (hne : a.toNat ≠ 0x01) (ha : a.toNat < 0x40) :
    decodeRead a = .rdZero a := by
  rw [decodeRead, if_neg (byte_ne_of_toNat_ne hne), if_pos ha]

/-- The index of a result byte is the low part of its offset (30_encoding.md R43). -/
theorem extractLsb'_eq_of_toNat_mod {a : Byte} {n : Nat} {i : BitVec n} (h : a.toNat % 2 ^ n = i.toNat) :
    a.extractLsb' 0 n = i :=
  BitVec.eq_of_toNat_eq (by rw [BitVec.extractLsb'_toNat, Nat.shiftRight_zero, h])

/-- The digest window (R90). -/
theorem decodeRead_dgst {a : Byte} {i : BitVec 6} (ha : a.toNat = 0x40 + i.toNat) :
    decodeRead a = .rdDgst i := by
  obtain ⟨-, hstatus, -⟩ := byte_ne_of_three_le (a := a) (by omega)
  rw [decodeRead, if_neg hstatus, if_neg (by omega), if_pos (by omega),
    extractLsb'_eq_of_toNat_mod (i := i) (by omega)]

/-- The hex window (R91). -/
theorem decodeRead_hex {a : Byte} {j : BitVec 7} (ha : a.toNat = 0x80 + j.toNat) :
    decodeRead a = .rdHex j := by
  obtain ⟨-, hstatus, -⟩ := byte_ne_of_three_le (a := a) (by omega)
  rw [decodeRead, if_neg hstatus, if_neg (by omega), if_neg (by omega),
    extractLsb'_eq_of_toNat_mod (i := j) (by omega)]

/-! ### The commands -/

/-- Settles O20: NOP retires, and does no more. -/
theorem nopDoesNothing : Obligations.NopDoesNothing := by
  unfold Obligations.NopDoesNothing
  exact ⟨rfl, fun s => ⟨exec_nop, fun hb => exec_busy hb nofun⟩⟩

/-- Settles O21: INIT opens a message and retires. -/
theorem initStartsAMessage : Obligations.InitStartsAMessage := by
  unfold Obligations.InitStartsAMessage
  exact ⟨rfl, fun s => ⟨exec_init, fun hb => exec_busy hb nofun⟩⟩

/-- Settles O24: a reserved command retires and raises the illegal-command error. -/
theorem reservedCommandSetsCmderr : Obligations.ReservedCommandSetsCmderr := by
  unfold Obligations.ReservedCommandSetsCmderr
  refine fun s v => ⟨exec_cmdRsvd, fun hb => exec_busy hb nofun, fun hv => ?_⟩
  calc decodeWord (mkTxnWord true 0x00 v)
    _ = decodeWrite 0x00 v := decodeWord_write 0x00 v
    _ = decodeCommand v := if_pos rfl
    _ = .cmdRsvd v := decodeCommand_reserved hv

/-! ### The ignored writes -/

/-- Settles O27: an ignored write retires, and does no more. -/
theorem ignoredWrites : Obligations.IgnoredWrites := by
  unfold Obligations.IgnoredWrites
  refine ⟨fun s a x i hi => ?performed, fun a x => ?decoded⟩
  case performed =>
    rcases hi with rfl | rfl
    · exact ⟨exec_wrRo, fun hb => exec_busy hb nofun⟩
    · exact ⟨exec_wrRsvd, fun hb => exec_busy hb nofun⟩
  case decoded =>
    rw [decodeWord_write]
    exact ⟨fun ha => decodeWrite_readOnly ha x, fun hlow hhigh => decodeWrite_reserved hlow hhigh x⟩

/-! ### The reads -/

/-- STATUS while a job runs: `BUSY` and phase ABSORB make 0x03, and `LENOVF` is clear outside phase
ERROR, so only the bits `SEQERR` and `CMDERR` vary (R89). -/
theorem statusByte_busy {s : State} (hb : s.busy = true) (habsorb : BusyAbsorbs s)
    (hoverflow : OverflowIsError s) :
    statusByte s = 0x03 + (if s.seqerr then 0x10 else 0x00) + (if s.cmderr then 0x20 else 0x00) := by
  have hphase : s.phase = .absorb := habsorb hb
  have hlenovf : s.lenovf = false :=
    Bool.eq_false_iff.mpr fun h => nomatch hphase.symm.trans (hoverflow.mp h)
  rw [statusByte, hb, hphase, hlenovf]
  cases s.seqerr <;> cases s.cmderr <;> rfl

/-- Settles O28: the read answers without asking for `BUSY`, whose value while a job runs is that of
`statusByte_busy`. -/
theorem statusReadNeverHolds : Obligations.StatusReadNeverHolds := by
  unfold Obligations.StatusReadNeverHolds
  exact ⟨fun s => rfl, fun s => statusByte_busy, decodeWord_read 0x01⟩

/-- Settles O29: each window's read answers with its byte, which is zero where the buffers hold no
result. -/
theorem resultReads : Obligations.ResultReads := by
  unfold Obligations.ResultReads
  intro s i j x
  have hdgst : (0x40 + i.setWidth 8 : Byte).toNat = 0x40 + i.toNat := by bv_omega
  have hhex : (0x80 + j.setWidth 8 : Byte).toNat = 0x80 + j.toNat := by bv_omega
  refine ⟨exec_rdDgst, exec_rdHex, fun hb => ⟨exec_busy hb nofun, exec_busy hb nofun⟩,
    fun hnone hphase => ?zero, ⟨hdgst, hhex⟩, ?dgst, ?hex⟩
  case zero =>
    obtain ⟨hd, hx⟩ := hnone hphase
    simp [hd, hx]
  case dgst => rw [decodeWord_read, decodeRead_dgst hdgst]
  case hex => rw [decodeWord_read, decodeRead_hex hhex]

/-- Settles O30: the read answers with zero; the offsets are those below the digest window but STATUS. -/
theorem zeroReads : Obligations.ZeroReads := by
  unfold Obligations.ZeroReads
  refine fun s a x => ⟨exec_rdZero, fun hb => exec_busy hb nofun, fun ha => ?_⟩
  rw [decodeWord_read, decodeRead_zero (by omega) (by omega)]

end Sys2Proof.Machine
end

section
/-! # The sequence error (60_exceptions.md R97) -/

namespace Sys2Proof.Machine

/-- Outside phase ABSORB, FINAL retires and raises the sequence error (43_host_interface.md R84). -/
theorem exec_final_of_phase {s : State} (hb : s.busy = false) (hphase : s.phase ≠ .absorb) :
    exec .final s = .next (s.retire.raiseError .sequence) := by
  rw [exec_final hb, if_pos hphase]

/-- Outside phase ABSORB a byte raises the sequence error; the phase check comes before the length check
(40_padding.md R50). -/
theorem absorbByte_of_phase {s : State} {d : Byte} (hphase : s.phase ≠ .absorb) :
    absorbByte s d = .next (s.raiseError .sequence) := by
  rw [absorbByte, if_pos hphase]

/-- Outside phase ABSORB, a DATA write retires and raises the sequence error (40_padding.md R50). -/
theorem exec_absorb_of_phase {s : State} {d : Byte} (hb : s.busy = false) (hphase : s.phase ≠ .absorb) :
    exec (.absorb d) s = .next (s.retire.raiseError .sequence) := by
  rw [exec_absorb hb, absorbByte_of_phase (s := s.retire) hphase]

/-- Settles O23: either transaction retires and raises the sequence error. -/
theorem sequenceErrors : Obligations.SequenceErrors := by
  unfold Obligations.SequenceErrors
  intro s i hi hb hphase
  rcases hi with rfl | ⟨d, rfl⟩
  · exact exec_final_of_phase hb hphase
  · exact exec_absorb_of_phase hb hphase

end Sys2Proof.Machine
end

section
/-! # After reset, and while the engine is busy (70_reset_and_hazards.md) -/

namespace Sys2Proof.Machine

/-! ### Until INIT (R110) -/

/-- Reset leaves `H` zero, and `IV` is not. -/
theorem reset_h_ne_iv : State.reset.h ≠ iv := by decide +kernel

/-- In IDLE, between jobs, every transaction but INIT completes, stays in IDLE and starts no job; FINAL
and a DATA write raise the sequence error. -/
theorem exec_of_idle {s : State} {i : Instr} (hphase : s.phase = .idle) (hb : s.busy = false)
    (hi : i ≠ .init) :
    ∃ t, exec i s = .next t ∧ t.phase = .idle ∧ t.busy = false ∧
      (i = .final ∨ (∃ d, i = .absorb d) → t.seqerr = true) := by
  have habsorb : s.phase ≠ .absorb := hphase ▸ nofun
  cases i with
  | init => exact absurd rfl hi
  | final => exact ⟨_, exec_final_of_phase hb habsorb, hphase, hb, fun _ => rfl⟩
  | absorb d => exact ⟨_, exec_absorb_of_phase hb habsorb, hphase, hb, fun _ => rfl⟩
  | nop => exact ⟨_, exec_nop hb, hphase, hb, by simp⟩
  | cmdRsvd v => exact ⟨_, exec_cmdRsvd hb, hphase, hb, by simp⟩
  | wrRo a x => exact ⟨_, exec_wrRo hb, hphase, hb, by simp⟩
  | wrRsvd a x => exact ⟨_, exec_wrRsvd hb, hphase, hb, by simp⟩
  | rdStatus => exact ⟨_, rfl, hphase, hb, by simp⟩
  | rdDgst n => exact ⟨_, exec_rdDgst hb, hphase, hb, by simp⟩
  | rdHex j => exact ⟨_, exec_rdHex hb, hphase, hb, by simp⟩
  | rdZero a => exact ⟨_, exec_rdZero hb, hphase, hb, by simp⟩

/-- Settles O15: after reset the state is in IDLE, which `exec_of_idle` speaks of, and INIT opens a
message, with `IV`. -/
theorem resetNeedsInit : Obligations.ResetNeedsInit := by
  unfold Obligations.ResetNeedsInit
  exact ⟨reset_h_ne_iv, rfl, fun s i => exec_of_idle, fun s hb => ⟨_, exec_init hb, rfl, rfl⟩⟩

/-! ### The hold (R113) -/

/-- The host's step performs the transaction presented. -/
theorem step_host {s : State} {r : Request} {i : Instr} (hw : whoseTurn s = .host r)
    (hf : fetch r = .ok i) : step s = exec i s.passReset.useTurn := by
  rw [step, hw]
  simp only [hf]

/-- With the engine idle no host turn is counted. -/
theorem useTurn_free {s : State} (hb : s.busy = false) : s.useTurn = s := by
  rw [State.useTurn, hb, if_neg nofun]

/-- The engine's step is its micro-step but for the draw of a free value, and leaves the host's side
alone. -/
theorem step_engine_leaves {s t : State} (hw : whoseTurn s = .engine) (h : step s = .next t) :
    (∃ u, microStep s.passReset = .next u ∧ t = { u with slack := t.slack, tick := t.tick }) ∧
      t.pending = s.pending ∧ t.holding = s.holding ∧ t.returned = s.returned := by
  rw [step_engine hw] at h
  obtain ⟨u, hu, rfl⟩ := engineTurn_next h
  obtain ⟨hpending, hholding, hreturned, -⟩ := microStep_leaves hu
  exact ⟨⟨u, hu, rfl⟩, hpending, hholding, hreturned⟩

/-- With the engine idle the transaction presented is performed against the state as it is. -/
theorem step_of_free {s : State} {r : Request} {rest : List Request} {i : Instr} (hb : s.busy = false)
    (hreset : s.resetIn.head? ≠ some true) (hpending : s.pending = r :: rest) (hf : fetch r = .ok i) :
    step s = exec i s.passReset := by
  rw [step_host (whoseTurn_of_host hreset hpending (.inl hb)) hf, useTurn_free (s := s.passReset) hb]

/-- Settles O10: a busy state answers with the hold; while the host holds it is the engine's turn, and
once `BUSY = 0` it is the host's. -/
theorem transactionsHoldWhileBusy : Obligations.TransactionsHoldWhileBusy := by
  unfold Obligations.TransactionsHoldWhileBusy
  refine ⟨fun s i => exec_busy, fun s _ => rfl, fun s t hb hhold _ hreset h => ?_,
    fun s r rest i => step_of_free⟩
  have hw : whoseTurn s = .engine := whoseTurn_of_engine hreset hb (.inr (.inl hhold))
  obtain ⟨hmicro, hpending, hholding, hreturned⟩ := step_engine_leaves hw h
  exact ⟨hmicro, hpending, hholding.trans hhold, hreturned⟩

end Sys2Proof.Machine
end

section
/-! # The invariant and the message (10_state.md R26): the statements -/

namespace Sys2Proof.Machine

/-! ### A message opens -/

/-- Settles O47: INIT opens the empty message. -/
theorem initOpensTheEmptyMessage : Obligations.InitOpensTheEmptyMessage := by
  unfold Obligations.InitOpensTheEmptyMessage
  exact fun s hb => ⟨_, exec_init hb, absorbing_openMessage hb⟩

/-! ### What every step keeps -/

/-- Settles O54: the reset state is what a reset makes of itself. -/
theorem invariantAtReset : Obligations.InvariantAtReset := by
  unfold Obligations.InvariantAtReset
  exact invariant_applyReset State.reset

/-- Settles O55: by the list of all that a step can do, with every transaction and every micro-step on
it keeping the invariant. -/
theorem stepKeepsInvariant : Obligations.StepKeepsInvariant := by
  unfold Obligations.StepKeepsInvariant
  exact fun s t => step_invariant

/-- Settles O57: by the same list, with every transaction and every micro-step keeping the relation to
the message. -/
theorem stepKeepsTheMessage : Obligations.StepKeepsTheMessage := by
  unfold Obligations.StepKeepsTheMessage
  exact fun s t m => step_hashing

/-! ### No step faults -/

/-- What the sequencer keeps for `ROUND` alone: it is taken only while `T < 80` (R14). -/
def RoundsLeft (s : State) : Prop := s.mstep = .round → s.t.val < 80

/-- In a running job of the invariant no round is taken beyond the last. -/
theorem Invariant.roundsLeft {s : State} (h : Invariant s) (hb : s.busy = true) : RoundsLeft s := by
  obtain ⟨-, -, -, -, -, hseq⟩ := h
  exact (hseq hb).1

/-- While rounds are left, the engine has a next micro-step. -/
theorem RoundsLeft.exists_microStep {s : State} (h : RoundsLeft s) : ∃ t, microStep s = .next t := by
  cases hm : s.mstep with
  | load => exact ⟨_, microStep_load hm⟩
  | round => exact ⟨_, microStep_round hm (h hm)⟩
  | update => exact ⟨_, microStep_update hm⟩
  | pad2 => exact ⟨_, microStep_pad2 hm⟩
  | finish => exact ⟨_, microStep_finish hm⟩

/-- In phase ABSORB, with room in the buffer, a byte is answered with a next state. -/
theorem exists_exec_absorb {s : State} (d : Byte) (hb : s.busy = false) (hp : s.bufptr.val ≤ 127) :
    ∃ t, exec (.absorb d) s = .next t := by
  by_cases hphase : s.phase = .absorb
  · by_cases hlen : s.len = maxLen
    · exact ⟨_, exec_absorb_overflow hb hphase hlen⟩
    · have hlt : s.retire.bufptr.val < 128 := Nat.lt_succ_of_le hp
      exact ⟨_, (exec_absorb_of_ne_maxLen hb hphase hlen).trans (storeByte_of_lt hlt)⟩
  · exact ⟨_, exec_absorb_of_phase hb hphase⟩

/-- With BUFPTR inside the buffer, FINAL is answered with a next state. -/
theorem exists_exec_final {s : State} (hb : s.busy = false) (hp : s.bufptr.val ≤ 127) :
    ∃ t, exec .final s = .next t := by
  by_cases hphase : s.phase = .absorb
  · rcases Nat.lt_or_ge 111 s.bufptr.val with h | h
    · exact ⟨_, exec_final_twoBlocks hb hphase h hp⟩
    · exact ⟨_, exec_final_oneBlock hb hphase h⟩
  · exact ⟨_, exec_final_of_phase hb hphase⟩

/-- Between jobs BUFPTR points into the buffer (R26 item 1), and then every transaction is answered with
a next state; while a job runs it holds. -/
theorem exists_exec {s : State} (h : IdleEngine s) (i : Instr) : ∃ t, exec i s = .next t := by
  cases hb : s.busy with
  | true =>
    by_cases hi : i = .rdStatus
    · exact hi ▸ ⟨_, rfl⟩
    · exact ⟨_, exec_busy hb hi⟩
  | false =>
    obtain ⟨hp, -⟩ := h hb
    cases i with
    | final => exact exists_exec_final hb hp
    | absorb d => exact exists_exec_absorb d hb hp
    | nop => exact ⟨_, exec_nop hb⟩
    | init => exact ⟨_, exec_init hb⟩
    | cmdRsvd v => exact ⟨_, exec_cmdRsvd hb⟩
    | wrRo a x => exact ⟨_, exec_wrRo hb⟩
    | wrRsvd a x => exact ⟨_, exec_wrRsvd hb⟩
    | rdStatus => exact ⟨_, rfl⟩
    | rdDgst n => exact ⟨_, exec_rdDgst hb⟩
    | rdHex j => exact ⟨_, exec_rdHex hb⟩
    | rdZero a => exact ⟨_, exec_rdZero hb⟩

/-- Settles O56: whoever's turn it is, the step is answered with a next state or refused. -/
theorem noFaultUnderInvariant : Obligations.NoFaultUnderInvariant := by
  unfold Obligations.NoFaultUnderInvariant
  intro s f hinv h
  unfold step at h
  split at h
  · cases h
  · next hw =>
    have hrounds : RoundsLeft s.passReset := hinv.roundsLeft (whoseTurn_engine hw)
    obtain ⟨u, hu⟩ := hrounds.exists_microStep
    rw [engineTurn_of_next hu] at h
    cases h
  · cases h
  · split at h
    · cases h
    · next i _ =>
      obtain ⟨hidle, -⟩ := hinv
      have hturn : IdleEngine s.passReset.useTurn := by
        rw [useTurn_passReset]
        exact hidle
      obtain ⟨t, ht⟩ := exists_exec hturn i
      rw [ht] at h
      cases h

end Sys2Proof.Machine
end

section
/-! # Encoding and decoding (30_encoding.md sections 1 to 6) -/

namespace Sys2Proof.Machine

/-! ### A digest or a hex index and its offset (R43) -/

/-- The offset `01 ‖ i` is 0x40 + i. -/
theorem toNat_dgst_offset (i : BitVec 6) : (0b01#2 ++ i : BitVec 8).toNat = 0x40 + i.toNat := by
  have h : i.toNat < 2 ^ 6 := i.isLt
  rw [BitVec.toNat_append, ← Nat.shiftLeft_add_eq_or_of_lt h]
  rfl

/-- The offset `1 ‖ j` is 0x80 + j. -/
theorem toNat_hex_offset (j : BitVec 7) : (0b1#1 ++ j : BitVec 8).toNat = 0x80 + j.toNat := by
  have h : j.toNat < 2 ^ 7 := j.isLt
  rw [BitVec.toNat_append, ← Nat.shiftLeft_add_eq_or_of_lt h]
  rfl

/-! ### From the operation to the word and back -/

/-- The decoder gives a well-formed operation back from its word. -/
theorem decodeWord_encodeWord {i : Instr} (h : i.wf = true) : decodeWord (encodeWord i) = i := by
  unfold encodeWord
  cases i with
  | nop | init | final | rdStatus => rfl
  | absorb d => exact decodeWord_write 0x02 d
  | cmdRsvd v =>
    exact (decodeWord_write 0x00 v).trans (decodeCommand_reserved (of_decide_eq_true h))
  | wrRo a x => exact (decodeWord_write a x).trans (decodeWrite_readOnly (of_decide_eq_true h) x)
  | wrRsvd a x =>
    obtain ⟨hlow, hhigh⟩ := of_decide_eq_true h
    exact (decodeWord_write a x).trans (decodeWrite_reserved hlow hhigh x)
  | rdDgst i => exact (decodeWord_read _ _).trans (decodeRead_dgst (toNat_dgst_offset i))
  | rdHex j => exact (decodeWord_read _ _).trans (decodeRead_hex (toNat_hex_offset j))
  | rdZero a =>
    have ha : a.toNat = 0 ∨ a.toNat = 2 ∨ (3 ≤ a.toNat ∧ a.toNat ≤ 0x3F) := of_decide_eq_true h
    exact (decodeWord_read a 0x00).trans (decodeRead_zero (by omega) (by omega))

/-- Settles O2: the bytes decode as the word, and the word as the operation. -/
theorem decodeOfEncodeIsIdentity : Obligations.DecodeOfEncodeIsIdentity := by
  unfold Obligations.DecodeOfEncodeIsIdentity
  intro i h
  rw [encode, decode_wordBytes, decodeWord_encodeWord h]

/-! ### From the word to the operation and back -/

/-- `01 ‖ ADDR[5:0]` is the offset again, in the digest window. -/
theorem dgst_offset_extract {a : Byte} (hlow : 0x40 ≤ a.toNat) (hhigh : a.toNat < 0x80) :
    (0b01#2 ++ a.extractLsb' 0 6 : BitVec 8) = a := by
  apply BitVec.eq_of_toNat_eq
  rw [toNat_dgst_offset, BitVec.extractLsb'_toNat, Nat.shiftRight_zero]
  omega

/-- `1 ‖ ADDR[6:0]` is the offset again, in the hex window. -/
theorem hex_offset_extract {a : Byte} (hlow : 0x80 ≤ a.toNat) :
    (0b1#1 ++ a.extractLsb' 0 7 : BitVec 8) = a := by
  apply BitVec.eq_of_toNat_eq
  rw [toNat_hex_offset, BitVec.extractLsb'_toNat, Nat.shiftRight_zero]
  omega

/-- A write to CMD decodes to a well-formed command, whose word is the write. -/
theorem decodeCommand_wf_encode (x : Byte) :
    (decodeCommand x).wf = true ∧ encodeWord (decodeCommand x) = mkTxnWord true 0x00 x := by
  unfold decodeCommand
  split
  · next h => exact ⟨rfl, congrArg (mkTxnWord true 0x00) h.symm⟩
  · next h0 =>
    split
    · next h => exact ⟨rfl, congrArg (mkTxnWord true 0x00) h.symm⟩
    · next h1 =>
      split
      · next h => exact ⟨rfl, congrArg (mkTxnWord true 0x00) h.symm⟩
      · next h2 =>
        have h3 : 3 ≤ x.toNat := by bv_omega
        exact ⟨decide_eq_true h3, rfl⟩

/-- A write decodes to a well-formed operation, whose word is the write. -/
theorem decodeWrite_wf_encode (a x : Byte) :
    (decodeWrite a x).wf = true ∧ encodeWord (decodeWrite a x) = mkTxnWord true a x := by
  unfold decodeWrite
  split
  · next h => exact h ▸ decodeCommand_wf_encode x
  · next hcmd =>
    split
    · next h => exact ⟨decide_eq_true (.inl (congrArg BitVec.toNat h)), rfl⟩
    · next hstatus =>
      split
      · next h => exact ⟨rfl, h ▸ rfl⟩
      · next hdata =>
        have h3 : 3 ≤ a.toNat := by bv_omega
        split
        · next h => exact ⟨decide_eq_true ⟨h3, by omega⟩, rfl⟩
        · next h => exact ⟨decide_eq_true (.inr (by omega)), rfl⟩

/-- A read decodes to a well-formed operation, whose word is the read with DATA 0. -/
theorem decodeRead_wf_encode (a : Byte) :
    (decodeRead a).wf = true ∧ encodeWord (decodeRead a) = mkTxnWord false a 0x00 := by
  unfold decodeRead
  split
  · next h => exact ⟨rfl, h ▸ rfl⟩
  · next hstatus =>
    have h1 : a.toNat ≠ 1 := by bv_omega
    split
    · exact ⟨decide_eq_true (by omega), rfl⟩
    · split
      · exact ⟨rfl, congrArg (mkTxnWord false · 0x00) (dgst_offset_extract (by omega) (by omega))⟩
      · exact ⟨rfl, congrArg (mkTxnWord false · 0x00) (hex_offset_extract (by omega))⟩

/-- Settles O3: column by column of the register map. -/
theorem encodeOfDecodeIsTheWord : Obligations.EncodeOfDecodeIsTheWord := by
  unfold Obligations.EncodeOfDecodeIsTheWord
  refine fun w => ⟨decode_wordBytes w, ?_⟩
  unfold decodeWord
  split
  · next hw =>
    obtain ⟨hwf, henc⟩ := decodeWrite_wf_encode w.addr w.data
    rw [← hw, mkTxnWord_fields] at henc
    exact ⟨hwf, henc⟩
  · exact decodeRead_wf_encode w.addr

/-- Settles O4: the decoder asks for three bytes of which the last is 0 or 1, and these are the word of
that direction. -/
theorem decoderAcceptsExactlyWords : Obligations.DecoderAcceptsExactlyWords := by
  unfold Obligations.DecoderAcceptsExactlyWords
  refine fun bs => ⟨fun ⟨i, h⟩ => ?_, fun ⟨w, hw⟩ => ⟨_, hw ▸ decode_wordBytes w⟩⟩
  unfold decode at h
  split at h
  · next d a r _ =>
    split at h
    · next hr => exact ⟨mkTxnWord false a d, by simp [wordBytes, hr]⟩
    · split at h
      · next hr => exact ⟨mkTxnWord true a d, by simp [wordBytes, hr]⟩
      · cases h
  · cases h

/-! ### The words of the spec's programs and the assembler's mnemonics -/

/-- Settles O1: each word is evaluated. -/
theorem specProgramWordsDecode : Obligations.SpecProgramWordsDecode := by
  unfold Obligations.SpecProgramWordsDecode
  exact ⟨rfl, rfl, rfl, rfl, rfl, rfl, rfl, rfl, rfl, rfl, rfl⟩

/-- The read of digest byte i. -/
theorem fetch_rd_dgst (i : BitVec 6) : fetch (.rd (0x40 + i.setWidth 8)) = .ok (.rdDgst i) := by
  rw [fetch_rd, decodeRead_dgst (i := i) (by bv_omega)]

/-- The read of hex character j. -/
theorem fetch_rd_hex (j : BitVec 7) : fetch (.rd (0x80 + j.setWidth 8)) = .ok (.rdHex j) := by
  rw [fetch_rd, decodeRead_hex (j := j) (by bv_omega)]

/-- Settles O7: each expansion by the fields of its words. -/
theorem pseudoInstructionsExpand : Obligations.PseudoInstructionsExpand := by
  unfold Obligations.PseudoInstructionsExpand
  refine ⟨rfl, rfl, rfl, rfl, fun b => ?_, fun text => ?_, fun i => ?_, fun j => ?_⟩
  · exact congrArg (fun x => [x]) (fetch_wr 0x02 b)
  · simp only [Pseudo.expand, List.map_map]
    exact List.map_congr_left fun b _ => fetch_wr 0x02 b
  · exact congrArg (fun x => [x]) (fetch_rd_dgst i)
  · exact congrArg (fun x => [x]) (fetch_rd_hex j)

end Sys2Proof.Machine
end

section
/-! # Who writes what (10_state.md sections 5 and 6, 20_memory.md sections 4 and 5) -/

namespace Sys2Proof.Machine

/-! ### The host's side of the bus (20_memory.md R38) -/

/-- A transaction holds, or it completes and returns at most one byte. -/
theorem Performs.completes {s t : State} {i : Instr} (h : Performs s i t) :
    (t.pending = s.pending ∧ t.returned = s.returned) ∨
    (t.pending = s.pending.tail ∧ t.holding = false ∧
      (t.returned = s.returned ∨ ∃ b, t.returned = s.returned ++ [b])) := by
  cases h with
  | held => exact .inl ⟨rfl, rfl⟩
  | status | rdDgst | rdHex | rdZero => exact .inr ⟨rfl, rfl, .inr ⟨_, rfl⟩⟩
  | finalOneBlock | finalTwoBlocks => simp
  | _ => exact .inr ⟨rfl, rfl, .inl rfl⟩

/-- Settles O13: only a transaction completes the first pending access; the engine and an idle step leave
the host's side alone. -/
theorem oneTransactionAtATime : Obligations.OneTransactionAtATime := by
  unfold Obligations.OneTransactionAtATime
  intro s t hreset h
  rcases step_cases h with ⟨hw, -⟩ | ⟨-, -, u, hu, rfl⟩ | ⟨-, rfl⟩ | ⟨r, rest, i, -, hpending, -, he⟩
  · exact absurd (whoseTurn_reset.mp hw) hreset
  · obtain ⟨hkept, -, hreturned, -⟩ := microStep_leaves hu
    exact .inl ⟨hkept, hreturned⟩
  · exact .inl ⟨rfl, rfl⟩
  · have hperf := (exec_performs he).completes
    rw [useTurn_passReset] at hperf
    rcases hperf with hheld | ⟨htail, hfree, hreturned⟩
    · exact .inl hheld
    · exact .inr ⟨r, by rw [htail, hpending, List.tail_cons], hfree, hreturned⟩

/-! ### BUSY (10_state.md R17) -/

/-- A transaction that raises BUSY starts a job in phase ABSORB. -/
theorem Performs.busy_raised {s t : State} {i : Instr} (h : Performs s i t) (hb : s.busy = false)
    (ht : t.busy = true) :
    s.phase = .absorb ∧ t.mstep = .load ∧
      ((∃ d, i = .absorb d ∧ s.bufptr.val = 127 ∧ t.job = .block) ∨
        (i = .final ∧ t.job = if s.bufptr.val ≤ 111 then .finalLast else .finalFirst)) := by
  cases h with
  | finalOneBlock _ hp hle => exact ⟨hp, rfl, .inr ⟨rfl, (if_pos hle).symm⟩⟩
  | finalTwoBlocks _ hp hge => exact ⟨hp, rfl, .inr ⟨rfl, (if_neg (by omega)).symm⟩⟩
  | absorbFull _ hp _ _ h127 => exact ⟨hp, rfl, .inl ⟨_, rfl, h127, rfl⟩⟩
  | _ => exact nomatch hb.symm.trans ht

/-- No transaction lowers BUSY. -/
theorem Performs.busy_of_busy {s t : State} {i : Instr} (h : Performs s i t) (hb : s.busy = true) :
    t.busy = true := by
  cases h with
  | finalOneBlock | finalTwoBlocks | absorbFull => rfl
  | _ => exact hb

/-- A micro-step that lowers BUSY is the `UPDATE` of a BLOCK job or `FINISH`. -/
theorem Advances.busy_lowered {s t : State} (h : Advances s t) (hb : s.busy = true)
    (ht : t.busy = false) : s.mstep = .update ∧ s.job = .block ∨ s.mstep = .finish := by
  cases h with
  | updateBlock hm hj => exact .inl ⟨hm, hj⟩
  | finish hm => exact .inr hm
  | _ => exact nomatch ht.symm.trans hb

/-- A step that raises BUSY performs a transaction that does. -/
theorem step_busy_raised {s t : State} (h : step s = .next t) (hb : s.busy = false)
    (ht : t.busy = true) :
    s.phase = .absorb ∧ t.mstep = .load ∧ ∃ r, whoseTurn s = .host r ∧
      ((∃ d, fetch r = .ok (.absorb d) ∧ s.bufptr.val = 127 ∧ t.job = .block) ∨
        (fetch r = .ok .final ∧ t.job = if s.bufptr.val ≤ 111 then .finalLast else .finalFirst)) := by
  rcases step_cases h with ⟨-, rfl⟩ | ⟨-, hbusy, -⟩ | ⟨-, rfl⟩ | ⟨r, rest, i, hw, -, hf, he⟩
  · cases ht
  · exact nomatch hb.symm.trans hbusy
  · exact nomatch hb.symm.trans ht
  · have hperf := (exec_performs he).busy_raised
    rw [useTurn_passReset] at hperf
    obtain ⟨hphase, hload, ⟨d, rfl, h127, hj⟩ | ⟨rfl, hj⟩⟩ := hperf hb ht
    · exact ⟨hphase, hload, r, hw, .inl ⟨d, hf, h127, hj⟩⟩
    · exact ⟨hphase, hload, r, hw, .inr ⟨hf, hj⟩⟩

/-- A step that lowers BUSY is a reset or a micro-step that does. -/
theorem step_busy_lowered {s t : State} (h : step s = .next t) (hb : s.busy = true)
    (ht : t.busy = false) :
    whoseTurn s = .reset ∨
      (whoseTurn s = .engine ∧ (s.mstep = .update ∧ s.job = .block ∨ s.mstep = .finish)) := by
  rcases step_cases h with ⟨hw, -⟩ | ⟨hw, -, u, hu, rfl⟩ | ⟨-, rfl⟩ | ⟨r, rest, i, -, -, -, he⟩
  · exact .inl hw
  · exact .inr ⟨hw, (microStep_advances hu).busy_lowered hb ht⟩
  · exact nomatch ht.symm.trans hb
  · have hperf := (exec_performs he).busy_of_busy
    rw [useTurn_passReset] at hperf
    exact nomatch ht.symm.trans (hperf hb)

/-- Settles O18: by the list of all that a step can do, for each direction. -/
theorem busyWriters : Obligations.BusyWriters := by
  unfold Obligations.BusyWriters
  exact fun s t h => ⟨step_busy_raised h, step_busy_lowered h⟩

/-! ### The error flags (10_state.md R19, 60_exceptions.md R102) -/

/-- The flags that are set in `s` are set in `t`. -/
def KeepsFlags (s t : State) : Prop :=
  (s.lenovf = true → t.lenovf = true) ∧ (s.seqerr = true → t.seqerr = true) ∧
    (s.cmderr = true → t.cmderr = true)

theorem keepsFlags_of_eq {s t : State} (hlenovf : t.lenovf = s.lenovf) (hseqerr : t.seqerr = s.seqerr)
    (hcmderr : t.cmderr = s.cmderr) : KeepsFlags s t :=
  ⟨hlenovf.trans, hseqerr.trans, hcmderr.trans⟩

/-- Raising an error clears no flag. -/
theorem keepsFlags_raiseError (s : State) (e : ErrorCondition) : KeepsFlags s (s.raiseError e) := by
  cases e with
  | lengthOverflow => exact ⟨fun _ => rfl, id, id⟩
  | sequence => exact ⟨id, fun _ => rfl, id⟩
  | illegalCommand => exact ⟨id, id, fun _ => rfl⟩

/-- Only an INIT that is performed clears a flag. -/
theorem Performs.keepsFlags {s t : State} {i : Instr} (h : Performs s i t)
    (hi : s.busy = true ∨ i ≠ .init) : KeepsFlags s t := by
  cases h with
  | init hb =>
    rcases hi with hbusy | hne
    · exact nomatch hb.symm.trans hbusy
    · exact absurd rfl hne
  | cmdRsvd | finalSequence | absorbSequence | absorbOverflow => exact keepsFlags_raiseError s.retire _
  | finalOneBlock | finalTwoBlocks => simp [KeepsFlags]
  | _ => exact keepsFlags_of_eq rfl rfl rfl

/-- Only a reset and an INIT that is performed clear a flag. -/
theorem step_keepsFlags {s t : State} (h : step s = .next t) (hreset : whoseTurn s ≠ .reset)
    (hinit : s.busy = true ∨ ∀ r, whoseTurn s = .host r → fetch r ≠ .ok .init) : KeepsFlags s t := by
  rcases step_cases h with ⟨hw, -⟩ | ⟨-, -, u, hu, rfl⟩ | ⟨-, rfl⟩ | ⟨r, rest, i, hw, -, hf, he⟩
  · exact absurd hw hreset
  · obtain ⟨-, -, -, -, -, -, -, hseqerr, hlenovf, hcmderr⟩ := microStep_leaves hu
    exact keepsFlags_of_eq hlenovf hseqerr hcmderr
  · exact keepsFlags_of_eq rfl rfl rfl
  · have hperf := (exec_performs he).keepsFlags
    rw [useTurn_passReset] at hperf
    exact hperf (hinit.imp_right fun hne hi => hne r hw (hi ▸ hf))

/-- Settles O19: no other step clears a flag, and INIT clears the three. -/
theorem errorFlagsAreSticky : Obligations.ErrorFlagsAreSticky := by
  unfold Obligations.ErrorFlagsAreSticky
  exact ⟨fun s t => step_keepsFlags, fun s hb => ⟨_, exec_init hb, rfl, rfl, rfl⟩⟩

/-! ### The result buffers and the window (10_state.md R21, R22) -/

/-- Of the transactions only INIT writes DGST and HEX. -/
theorem Performs.results_kept {s t : State} {i : Instr} (h : Performs s i t)
    (hi : s.busy = true ∨ i ≠ .init) : t.dgst = s.dgst ∧ t.hex = s.hex := by
  cases h with
  | init hb =>
    rcases hi with hbusy | hne
    · exact nomatch hb.symm.trans hbusy
    · exact absurd rfl hne
  | finalOneBlock | finalTwoBlocks => simp
  | _ => exact ⟨rfl, rfl⟩

/-- Of the micro-steps only `FINISH` writes them. -/
theorem Advances.results_kept {s t : State} (h : Advances s t) (hm : s.mstep ≠ .finish) :
    t.dgst = s.dgst ∧ t.hex = s.hex := by
  cases h with
  | finish hfinish => exact absurd hfinish hm
  | _ => exact ⟨rfl, rfl⟩

/-- Settles O33: in any other step both buffers are kept. -/
theorem resultBufferWriters : Obligations.ResultBufferWriters := by
  unfold Obligations.ResultBufferWriters
  intro s t h hne
  have hchanged : ¬ (t.dgst = s.dgst ∧ t.hex = s.hex) := not_and_or.mpr hne
  rcases step_cases h with ⟨hw, -⟩ | ⟨hw, -, u, hu, rfl⟩ | ⟨-, rfl⟩ | ⟨r, rest, i, hw, -, hf, he⟩
  · exact .inl hw
  · exact .inr (.inl ⟨hw, not_not.mp fun hm => hchanged ((microStep_advances hu).results_kept hm)⟩)
  · exact absurd ⟨rfl, rfl⟩ hchanged
  · have hperf := (exec_performs he).results_kept
    rw [useTurn_passReset] at hperf
    obtain ⟨hb, rfl⟩ : ¬ s.busy = true ∧ i = .init := by
      simpa only [not_or, not_not] using mt hperf hchanged
    exact .inr (.inr ⟨r, hw, hf, Bool.eq_false_iff.mpr hb⟩)

/-- The transactions that raise no error and start no job leave STATUS. -/
theorem Performs.status_kept {s t : State} {i : Instr} (h : Performs s i t) (hinit : i ≠ .init)
    (hfinal : i ≠ .final) (habsorb : ∀ d, i ≠ .absorb d) (hcmd : ∀ v, i ≠ .cmdRsvd v) :
    statusByte t = statusByte s := by
  cases h with
  | init => exact absurd rfl hinit
  | finalSequence | finalOneBlock | finalTwoBlocks => exact absurd rfl hfinal
  | absorbSequence | absorbOverflow | absorbMore | absorbFull => exact absurd rfl (habsorb _)
  | cmdRsvd => exact absurd rfl (hcmd _)
  | _ => rfl

/-- Settles O32: a read of the window sees STATUS and the two result buffers, and nothing else. -/
theorem windowFrame : Obligations.WindowFrame := by
  unfold Obligations.WindowFrame
  intro i s t a h hinit
  have hperf := exec_performs h
  obtain ⟨hdgst, hhex⟩ := hperf.results_kept (.inr hinit)
  exact ⟨fun ha => readWindow_congr hdgst hhex a (.inl ha), fun hfinal habsorb hcmd =>
    readWindow_congr hdgst hhex a (.inr (hperf.status_kept hinit hfinal habsorb hcmd))⟩

/-! ### Reset (70_reset_and_hazards.md R109) -/

/-- A step with the reset input asserted. -/
theorem step_reset {s : State} (h : s.resetIn.head? = some true) : step s = .next s.applyReset := by
  rw [step, whoseTurn_reset.mpr h]

theorem statusByte_applyReset (s : State) : statusByte s.applyReset = 0x00 := by
  calc statusByte s.applyReset
    _ = statusByte State.reset := rfl
    _ = 0x00 := by decide

/-- A reset leaves every element at its reset value. -/
theorem atReset_applyReset (s : State) : AtReset s.applyReset :=
  ⟨rfl, rfl, rfl, rfl, rfl, rfl, rfl, rfl, rfl, rfl, rfl, rfl, rfl, rfl, rfl, rfl,
    statusByte_applyReset s⟩

/-- Settles O14: the step is the reset, which drops the first pending access only if it was holding. -/
theorem resetSetsEveryElement : Obligations.ResetSetsEveryElement := by
  unfold Obligations.ResetSetsEveryElement
  exact ⟨atReset_applyReset State.reset, fun s h => ⟨_, step_reset h, atReset_applyReset s, rfl, rfl,
    fun hhold => if_pos hhold, fun hhold => if_neg (Bool.eq_false_iff.mp hhold)⟩⟩

end Sys2Proof.Machine
end

section
/-! # The step: whose turn it is, and what is presented (20_memory.md section 1, 43_host_interface.md) -/

namespace Sys2Proof.Machine

/-! ### A word given as a number -/

/-- A word of 17 bits, from its fields as a number (30_encoding.md R42). -/
def wordOfNat (w : Nat) : TxnWord :=
  mkTxnWord (w.testBit 16) (BitVec.ofNat 8 (w / 2 ^ 8)) (BitVec.ofNat 8 w)

/-- The top bit as a byte. -/
theorem ofNat_div_topBit {w : Nat} (h : w < 2 ^ 17) :
    BitVec.ofNat 8 (w / 2 ^ 16) = if w.testBit 16 then 1 else 0 := by
  have hcases : w / 2 ^ 16 = 0 ∨ w / 2 ^ 16 = 1 := by omega
  rw [Nat.testBit_eq_decide_div_mod_eq]
  rcases hcases with h | h <;> rw [h] <;> rfl

/-- The bytes of the number are those of the word. -/
theorem tableBytes_eq_wordBytes {w : Nat} (h : w < 2 ^ 17) : tableBytes 24 w = wordBytes (wordOfNat w) := by
  rw [tableBytes, wordOfNat, wordBytes, mkTxnWord_data, mkTxnWord_addr, mkTxnWord_rw,
    Nat.mod_eq_of_lt (by omega), ← ofNat_div_topBit h]
  exact if_pos (by omega)

/-- The number decodes as the word. -/
theorem decodeTableWord_eq {w : Nat} (h : w < 2 ^ 17) :
    decodeTableWord 24 w = some (decodeWord (wordOfNat w)) := by
  rw [decodeTableWord, tableBytes_eq_wordBytes h, decode_wordBytes]

/-- The access whose word is the number is fetched as the word. -/
theorem fetch_ofWord {w : Nat} (h : w < 2 ^ 17) :
    fetch (Request.ofWord w) = .ok (decodeWord (wordOfNat w)) := by
  have hoffset : w / 2 ^ 8 % 2 ^ 8 + 2 ^ 8 * (w / 2 ^ 17) = w / 2 ^ 8 % 256 := by
    rw [Nat.div_eq_of_lt h, Nat.mul_zero, Nat.add_zero]
    rfl
  have haddr : BitVec.ofNat 8 (w / 2 ^ 8 % 256) = BitVec.ofNat 8 (w / 2 ^ 8) :=
    BitVec.eq_of_toNat_eq (Nat.mod_mod _ _)
  rw [Request.ofWord, hoffset, fetch_oneByte (Nat.mod_lt _ (by decide)), haddr, wordOfNat]

/-! ### The host's step -/

/-- On the host's turn, the transaction presented is performed. -/
theorem step_of_host {s : State} {r : Request} {rest : List Request} {i : Instr}
    (hreset : s.resetIn.head? ≠ some true) (hpending : s.pending = r :: rest) (hf : fetch r = .ok i)
    (hturn : s.busy = false ∨ s.holding = false ∧ s.slack ≠ 0) :
    step s = exec i { s with
      resetIn := s.resetIn.tail, slack := if s.busy then s.slack - 1 else s.slack } := by
  rw [step_host (whoseTurn_of_host hreset hpending hturn) hf, useTurn_passReset]

/-- The access that `withFetchWord` places finds the host's turn: a busy engine leaves it one. -/
theorem whoseTurn_present (s : State) (r : Request) : whoseTurn (s.present r) = .host r := by
  refine whoseTurn_of_host (rest := s.pending) (by simp) rfl ?_
  rw [State.present_busy, State.present_holding, State.present_slack]
  cases s.busy
  · exact .inl rfl
  · by_cases h : s.slack = 0 <;> simp [h]

/-- That turn is not one of those that may pass already. -/
theorem present_slack_afterTurn (s : State) (r : Request) :
    (if s.busy then (s.present r).slack - 1 else (s.present r).slack) =
      if s.busy then s.slack - 1 else s.slack := by
  rw [State.present_slack]
  cases s.busy
  · simp
  · by_cases h : s.slack = 0 <;> simp [h]

/-- Placing an access and taking the host's turn. -/
theorem useTurn_passReset_present (s : State) (r : Request) :
    (s.present r).passReset.useTurn = { s with
      pending := r :: s.pending
      holding := false
      resetIn := []
      slack := if s.busy then s.slack - 1 else s.slack } := by
  rw [useTurn_passReset, State.present_busy, present_slack_afterTurn]
  rfl

/-- An access placed by `withFetchWord` is performed by the very next step. -/
theorem step_withFetchWord (s : State) {w : Nat} {i : Instr} (h : w < 2 ^ 17)
    (hi : decodeTableWord 24 w = some i) :
    step (s.withFetchWord 24 w) = exec i { s with
      pending := Request.ofWord w :: s.pending
      holding := false
      resetIn := []
      slack := if s.busy then s.slack - 1 else s.slack } := by
  obtain rfl : decodeWord (wordOfNat w) = i := Option.some.inj ((decodeTableWord_eq h).symm.trans hi)
  rw [State.withFetchWord, Nat.mod_eq_of_lt (by omega),
    step_host (whoseTurn_present s _) (fetch_ofWord h), useTurn_passReset_present]

/-! ### The engine's step and the idle step -/

/-- Settles O8: by whose turn it is. -/
theorem stepRunsTheDecodedInstruction : Obligations.StepRunsTheDecodedInstruction := by
  unfold Obligations.StepRunsTheDecodedInstruction
  refine ⟨fun s write offset d rest i hreset hpending hoffset hi => ?host,
    fun s w i => step_withFetchWord s, fun s hreset hb hturn => ?engine, fun s hreset hb hpending => ?idle⟩
  case host =>
    rw [decode_wordBytes] at hi
    obtain rfl := Except.ok.inj hi
    exact step_of_host hreset hpending (fetch_oneByte hoffset)
  case engine =>
    rw [step_engine (whoseTurn_of_engine hreset hb hturn)]
    exact ⟨fun u => engineTurn_of_next, fun e => engineTurn_of_fault⟩
  case idle => exact step_idle (whoseTurn_of_idle hreset hb hpending)

/-! ### Accesses that are no transactions -/

/-- An access of another width is not fetched. -/
theorem fetch_notOneByte {r : Request} (h : r.lanes.length ≠ 1) : fetch r = .error .notOneByte := by
  have hbytes : fetchBytes r = .error .notOneByte := by
    unfold fetchBytes
    split
    · next hlanes => exact absurd (congrArg List.length hlanes) h
    · rfl
  rw [fetch, hbytes]

/-- A one-byte access outside the window is not fetched. -/
theorem fetch_outsideWindow {r : Request} (h : r.lanes.length = 1) (hoffset : 256 ≤ r.offset) :
    fetch r = .error .outsideWindow := by
  obtain ⟨d, hd⟩ := List.length_eq_one_iff.mp h
  have hbytes : fetchBytes r = .error .outsideWindow := by
    simp only [fetchBytes, hd]
    exact if_neg (not_lt.mpr hoffset)
  rw [fetch, hbytes]

/-- On the host's turn, an access that is not fetched is refused. -/
theorem step_refused {s : State} {r : Request} {e : Refusal} (hw : whoseTurn s = .host r)
    (hf : fetch r = .error e) : step s = .refused e := by
  rw [step, hw]
  simp only [hf]

/-- Settles O9: neither access is fetched. -/
theorem nonTransactionsAreRefused : Obligations.NonTransactionsAreRefused := by
  unfold Obligations.NonTransactionsAreRefused
  intro s r rest hreset hpending hturn
  have hw : whoseTurn s = .host r := whoseTurn_of_host hreset hpending hturn
  exact ⟨fun h => step_refused hw (fetch_notOneByte h),
    fun h hoffset => step_refused hw (fetch_outsideWindow h hoffset)⟩

end Sys2Proof.Machine
end

section
/-! # The engine's jobs from start to end (70_reset_and_hazards.md section 3, 41_compression.md section 5) -/

namespace Sys2Proof.Machine

/-! ### How many micro-steps are left (R115) -/

/-- The micro-steps that follow the `UPDATE` of a job: none, `FINISH`, or `PAD2` and a whole FINAL_LAST
job. -/
def microStepsAfterUpdate : Job → Nat
  | .block => 0
  | .finalLast => 1
  | .finalFirst => 84

/-- The micro-steps until BUSY falls. -/
def remaining (s : State) : Nat :=
  if s.busy then
    match s.mstep with
    | .load => 82 + microStepsAfterUpdate s.job
    | .round => 81 - s.t.val + microStepsAfterUpdate s.job
    | .update => 1 + microStepsAfterUpdate s.job
    | .pad2 => 84
    | .finish => 1
  else 0

theorem remaining_free {s : State} (hb : s.busy = false) : remaining s = 0 := by
  rw [remaining, hb, if_neg nofun]

theorem remaining_load {s : State} (hb : s.busy = true) (hm : s.mstep = .load) :
    remaining s = 82 + microStepsAfterUpdate s.job := by
  simp only [remaining, hb, hm, if_true]

theorem remaining_round {s : State} (hb : s.busy = true) (hm : s.mstep = .round) :
    remaining s = 81 - s.t.val + microStepsAfterUpdate s.job := by
  simp only [remaining, hb, hm, if_true]

theorem remaining_update {s : State} (hb : s.busy = true) (hm : s.mstep = .update) :
    remaining s = 1 + microStepsAfterUpdate s.job := by
  simp only [remaining, hb, hm, if_true]

theorem remaining_pad2 {s : State} (hb : s.busy = true) (hm : s.mstep = .pad2) : remaining s = 84 := by
  simp only [remaining, hb, hm, if_true]

theorem remaining_finish {s : State} (hb : s.busy = true) (hm : s.mstep = .finish) :
    remaining s = 1 := by
  simp only [remaining, hb, hm, if_true]

theorem microStepsAfterUpdate_le (j : Job) : microStepsAfterUpdate j ≤ 84 := by
  cases j <;> decide

/-- While a job runs there is at least one micro-step left, but for `ROUND` after the last round. -/
theorem RoundsLeft.remaining_pos {s : State} (h : RoundsLeft s) (hb : s.busy = true) : 0 < remaining s := by
  cases hm : s.mstep with
  | load => rw [remaining_load hb hm]; omega
  | round =>
    have := h hm
    rw [remaining_round hb hm]
    omega
  | update => rw [remaining_update hb hm]; omega
  | pad2 => rw [remaining_pad2 hb hm]; decide
  | finish => rw [remaining_finish hb hm]; decide

/-- A whole FINAL_FIRST job is the longest that can be left. -/
theorem remaining_le (s : State) : remaining s ≤ 166 := by
  have hafter := microStepsAfterUpdate_le s.job
  unfold remaining
  split
  · split <;> omega
  · decide

/-- Every micro-step of a running job is one of those that were left. -/
theorem Advances.remaining_succ {s t : State} (h : Advances s t) (hb : s.busy = true) :
    remaining t + 1 = remaining s := by
  cases h with
  | load hm =>
    rw [remaining_load hb hm, remaining_round (s := stepLoad s) hb rfl]
    simp only [stepLoad, Fin.val_zero]
    omega
  | round ht hm hne =>
    rw [remaining_round hb hm, remaining_round (s := rounded s ht) hb hm]
    simp only [rounded]
    omega
  | lastRound ht hm h80 =>
    rw [remaining_round hb hm, remaining_update (s := { rounded s ht with mstep := .update }) hb rfl]
    simp only [rounded]
    omega
  | updateBlock hm hj => rw [remaining_update hb hm, remaining_free rfl, hj]; rfl
  | updateFirst hm hj =>
    rw [remaining_update hb hm, remaining_pad2 (s := { s with h := _, mstep := .pad2 }) hb rfl, hj]
    rfl
  | updateLast hm hj =>
    rw [remaining_update hb hm, remaining_finish (s := { s with h := _, mstep := .finish }) hb rfl, hj]
    rfl
  | pad2 hm =>
    rw [remaining_pad2 hb hm, remaining_load (s := { s with buf := _, job := _, mstep := .load }) hb rfl]
    rfl
  | finish hm => rw [remaining_finish hb hm, remaining_free rfl]

/-- No micro-step leaves `ROUND` for a round beyond the last. -/
theorem Advances.roundsLeft {s t : State} (h : Advances s t) : RoundsLeft t := by
  cases h with
  | load => exact fun _ => Nat.zero_lt_succ _
  | round ht hm hne => exact fun _ => Nat.lt_of_le_of_ne ht hne
  | _ => exact nofun

/-- A micro-step that ends a job leaves `MSTEP` at `LOAD`. -/
theorem Advances.mstep_of_free {s t : State} (h : Advances s t) (hb : s.busy = true)
    (ht : t.busy = false) : t.mstep = .load := by
  cases h with
  | updateBlock | finish => rfl
  | _ => exact nomatch ht.symm.trans hb

/-- The micro-steps left can be taken one after the other, and what each of them keeps holds all along. -/
theorem microRun_of_le_remaining {P : State → Prop}
    (hP : ∀ {s t}, P s → s.busy = true → microStep s = .next t → P t) {k : Nat} {s : State} (hs : P s)
    (hrounds : RoundsLeft s) (hk : k ≤ remaining s) :
    ∃ t, microRun k s = .next t ∧ P t ∧ RoundsLeft t ∧ remaining t + k = remaining s := by
  induction k generalizing s with
  | zero => exact ⟨s, rfl, hs, hrounds, rfl⟩
  | succ k ih =>
    have hb : s.busy = true := by
      by_contra hfree
      rw [remaining_free (Bool.eq_false_iff.mpr hfree)] at hk
      omega
    obtain ⟨u, hu⟩ := hrounds.exists_microStep
    have hleft : remaining u + 1 = remaining s := (microStep_advances hu).remaining_succ hb
    obtain ⟨t, ht, hPt, hroundst, hleft'⟩ :=
      ih (hP hs hb hu) (microStep_advances hu).roundsLeft (by omega)
    refine ⟨t, ?_, hPt, hroundst, by omega⟩
    simp only [microRun, hu, ht]

/-- When none is left, the job has ended. -/
theorem RoundsLeft.free_of_remaining {s : State} (h : RoundsLeft s) (hleft : remaining s = 0) :
    s.busy = false :=
  Bool.eq_false_iff.mpr fun hb => (h.remaining_pos hb).ne' hleft

/-- Before that, it runs. -/
theorem busy_of_remaining {s : State} (hleft : 0 < remaining s) : s.busy = true := by
  by_contra hfree
  exact hleft.ne' (remaining_free (Bool.eq_false_iff.mpr hfree))

/-- Settles O45: the count of the micro-steps left starts at 82, 83 or 166, and each micro-step takes one
off it. -/
theorem jobMicroStepCounts : Obligations.JobMicroStepCounts := by
  unfold Obligations.JobMicroStepCounts
  intro s hb hm n
  have hn : remaining s = n := by
    rw [remaining_load hb hm]
    unfold n
    cases s.job <;> rfl
  have hrun (k : Nat) (hk : k ≤ n) :=
    microRun_of_le_remaining (P := fun t => t.busy = false → t.mstep = .load)
      (fun _ hbusy hu => (microStep_advances hu).mstep_of_free hbusy)
      (fun hfree => nomatch hb.symm.trans hfree) (fun hround => nomatch hm.symm.trans hround) (hn ▸ hk)
  refine ⟨fun k hk => ?_, ?_⟩
  · obtain ⟨t, ht, -, -, hleft⟩ := hrun k hk.le
    exact ⟨t, ht, busy_of_remaining (by omega)⟩
  · obtain ⟨t, ht, hload, hrounds, hleft⟩ := hrun n le_rfl
    have hfree : t.busy = false := hrounds.free_of_remaining (by omega)
    exact ⟨t, ht, hfree, hload hfree⟩

/-! ### What a job comes to -/

/-- FINAL has completed: the machine holds the digest of the message `m` (R26 item 6, 42_finalization_hex.md
R77). -/
structure Digested (s : State) (m : List Byte) : Prop where
  phase : s.phase = .done
  idle : s.busy = false
  chain : s.h = hashBlocks (padMessage m) (blockCount m.length)
  dgst : s.dgst = sha512 m
  hex : s.hex = digestHex m

/-- The message `m` is absorbed (`final` false) or digested (`final` true), now or as soon as the job that
runs for it ends. -/
inductive Underway (s : State) (m : List Byte) (final : Bool) : Prop
  | working : Working s m → (s.job = .block ↔ final = false) → Underway s m final
  | absorbing : Absorbing s m → final = false → Underway s m final
  | digested : Digested s m → final = true → Underway s m final

theorem Underway.absorbing_of_free {s : State} {m : List Byte} (h : Underway s m false)
    (hb : s.busy = false) : Absorbing s m := by
  cases h with
  | working hw => exact nomatch hb.symm.trans hw.busy
  | absorbing ha => exact ha
  | digested _ hfinal => cases hfinal

theorem Underway.digested_of_free {s : State} {m : List Byte} (h : Underway s m true)
    (hb : s.busy = false) : Digested s m := by
  cases h with
  | working hw => exact nomatch hb.symm.trans hw.busy
  | absorbing _ hfinal => cases hfinal
  | digested hd => exact hd

/-- `FINISH` leaves the digest (R77, R78). -/
theorem Working.digested {s : State} {m : List Byte} (h : Working s m) (hm : s.mstep = .finish) :
    Digested (stepFinish s) m := by
  obtain ⟨hj, hchain⟩ := (compressing_finish hm).mp h.compressing
  rw [hj, jobBlock_finalLast_succ] at hchain
  obtain ⟨hdgst, hhex⟩ := h.finish hm
  exact ⟨rfl, rfl, hchain, hdgst, hhex⟩

/-- Every micro-step of a running job keeps its message underway. -/
theorem Advances.underway {s t : State} {m : List Byte} {final : Bool} (h : Advances s t)
    (hw : Working s m) (hj : s.job = .block ↔ final = false) : Underway t m final := by
  cases h with
  | load hm => exact .working (hw.load hm) hj
  | round ht hm => exact .working (hw.round hm ht) hj
  | lastRound ht hm h80 => exact .working (hw.lastRound hm ht h80) hj
  | updateBlock hm hblock => exact .absorbing (hw.update_block hm hblock) (hj.mp hblock)
  | updateFirst hm hfirst => exact .working (hw.update_first hm hfirst) hj
  | updateLast hm hlast => exact .working (hw.update_last hm hlast) hj
  | pad2 hm =>
    obtain ⟨hfirst, -⟩ := (compressing_pad2 hm).mp hw.compressing
    rw [hfirst] at hj
    exact .working (hw.pad2 hm) ⟨nofun, fun hfinal => nomatch hj.mpr hfinal⟩
  | finish hm =>
    obtain ⟨hlast, -⟩ := (compressing_finish hm).mp hw.compressing
    rw [hlast] at hj
    exact .digested (hw.digested hm) (Bool.of_not_eq_false fun hfinal => nomatch hj.mpr hfinal)

/-- While a job runs, a message underway is the one it works for. -/
theorem Underway.of_microStep {s t : State} {m : List Byte} {final : Bool} (h : Underway s m final)
    (hb : s.busy = true) (ht : microStep s = .next t) : Underway t m final := by
  cases h with
  | working hw hj => exact (microStep_advances ht).underway hw hj
  | absorbing ha => exact nomatch ha.idle.symm.trans hb
  | digested hd => exact nomatch hd.idle.symm.trans hb

/-- The micro-steps of a whole job that starts for the message `m` end it. -/
theorem Working.microRun_job {s : State} {m : List Byte} {final : Bool} {n : Nat} (hw : Working s m)
    (hload : s.mstep = .load) (hj : s.job = .block ↔ final = false)
    (hn : 82 + microStepsAfterUpdate s.job = n) :
    ∃ u, microRun n s = .next u ∧ u.busy = false ∧ Underway u m final := by
  rw [← remaining_load hw.busy hload] at hn
  obtain ⟨u, hu, hunderway, hrounds, hleft⟩ := microRun_of_le_remaining (P := (Underway · m final))
    Underway.of_microStep (.working hw hj) (fun hround => nomatch hload.symm.trans hround) hn.ge
  exact ⟨u, hu, hrounds.free_of_remaining (by omega), hunderway⟩

/-! ### Absorbing a byte -/

/-- Settles O48: by whether the byte fills the buffer. -/
theorem absorbExtendsTheMessage : Obligations.AbsorbExtendsTheMessage := by
  unfold Obligations.AbsorbExtendsTheMessage
  intro s m d h hlength
  have hne : s.len ≠ maxLen := mt h.len_eq_maxLen_iff.mp hlength.ne
  have hlt : s.bufptr.val < 128 := h.bufptr_lt
  have hptr := h.bufptr
  by_cases hfull : s.bufptr.val = 127
  · have hw : Working ((stored s.retire d hlt).startJob .block) (m ++ [d]) := h.store_full hne hlt hfull
    obtain ⟨u, hu, hfree, hunderway⟩ := hw.microRun_job (final := false) rfl (iff_of_true rfl rfl) rfl
    refine ⟨_, exec_absorb_full h.idle h.phase hne hlt (by omega), ?_⟩
    rw [if_pos (by omega)]
    exact ⟨rfl, u, hu, hunderway.absorbing_of_free hfree⟩
  · have h127 : s.bufptr.val < 127 := by omega
    refine ⟨_, exec_absorb_stored h.idle h.phase hne hlt h127, ?_⟩
    rw [if_neg (by omega)]
    exact h.store hne hlt h127

/-! ### FINAL -/

/-- In a state that has absorbed the message `m`, FINAL starts a job for it, of 83 micro-steps if the
length field fits into the last block and of 166 if it does not. -/
theorem Absorbing.exec_final {s : State} {m : List Byte} (h : Absorbing s m) :
    ∃ t, exec .final s = .next t ∧ Working t m ∧ t.mstep = .load ∧ t.job ≠ .block ∧
      82 + microStepsAfterUpdate t.job = if m.length % 128 ≤ 111 then 83 else 166 := by
  have hptr := h.bufptr
  by_cases hp : s.bufptr.val ≤ 111
  · exact ⟨_, exec_final_oneBlock h.idle h.phase hp, h.final_oneBlock hp, rfl, nofun,
      (if_pos (hptr ▸ hp)).symm⟩
  · have hge : 112 ≤ s.bufptr.val := by omega
    exact ⟨_, exec_final_twoBlocks h.idle h.phase hge (by omega), h.final_twoBlocks hge, rfl, nofun,
      (if_neg (hptr ▸ hp)).symm⟩

/-- Settles O50: the job that FINAL starts ends with the digest. -/
theorem finalProducesTheDigest : Obligations.FinalProducesTheDigest := by
  unfold Obligations.FinalProducesTheDigest
  intro s m h
  obtain ⟨t, ht, hw, hload, hj, hn⟩ := h.exec_final
  obtain ⟨u, hu, hfree, hunderway⟩ := hw.microRun_job (final := true) hload (iff_of_false hj nofun) hn
  have hd : Digested u m := hunderway.digested_of_free hfree
  refine ⟨t, u, ht, hw.busy, hw.phase, hu, hd.idle, hd.phase, hd.chain, ?_, hd.dgst, hd.hex⟩
  rw [hd.dgst, hd.chain, sha512]

end Sys2Proof.Machine
end

section
/-! # The host and a running job (70_reset_and_hazards.md section 3, 43_host_interface.md section 5) -/

namespace Sys2Proof.Machine

/-! ### The engine's turn comes (R116) -/

/-- A reset input that is never asserted is not asserted at this step. -/
theorem head?_ne_of_notMem {levels : List Bool} (h : true ∉ levels) : levels.head? ≠ some true :=
  fun hhead => h (List.mem_of_mem_head? hhead)

/-- `s` and `t` agree on every element of 10_state.md, and have drawn equally often from the schedule. -/
def SameElements (s t : State) : Prop :=
  t = { s with
    pending := t.pending, holding := t.holding, returned := t.returned, resetIn := t.resetIn, slack := t.slack }

theorem SameElements.trans {s t u : State} (hst : SameElements s t) (htu : SameElements t u) :
    SameElements s u := by
  rw [SameElements, htu, hst]

/-- A transaction presented while a job runs holds, or is a STATUS read. -/
theorem Performs.of_busy {s t : State} {i : Instr} (h : Performs s i t) (hb : s.busy = true) :
    t = s.hold ∨ t = s.respond (statusByte s) := by
  cases h with
  | held => exact .inl rfl
  | status => exact .inr rfl
  | _ => exact nomatch hb.symm.trans ‹s.busy = false›

/-- A host turn while a job runs changes no element, uses up one of the turns that may pass, and presents
no access that was not pending. -/
theorem step_host_busy {s : State} {r : Request} {rest : List Request} {i : Instr}
    (hb : s.busy = true) (hreset : s.resetIn.head? ≠ some true) (hpending : s.pending = r :: rest)
    (hf : fetch r = .ok i) (hfree : s.holding = false) (hslack : s.slack ≠ 0) :
    ∃ t, step s = .next t ∧ SameElements s t ∧ t.slack = s.slack - 1 ∧ t.resetIn = s.resetIn.tail ∧
      ∀ x ∈ t.pending, x ∈ s.pending := by
  rw [step_of_host hreset hpending hf (.inr ⟨hfree, hslack⟩), if_pos hb]
  obtain ⟨t, ht⟩ := exists_exec (s := { s with resetIn := s.resetIn.tail, slack := s.slack - 1 })
    (fun hidle => nomatch hb.symm.trans hidle) i
  refine ⟨t, ht, ?_⟩
  rcases (exec_performs ht).of_busy hb with rfl | rfl
  · exact ⟨rfl, rfl, rfl, fun x hx => hx⟩
  · exact ⟨rfl, rfl, rfl, fun x hx => List.mem_of_mem_tail hx⟩

/-- After at most `slack` host turns it is the engine's turn, by induction on them. -/
theorem exists_engine_turn {s : State} (hb : s.busy = true) (hreset : true ∉ s.resetIn)
    (hfetch : ∀ r ∈ s.pending, ∃ i, fetch r = .ok i) :
    ∃ k t, k ≤ s.slack ∧ runSteps k s = .next t ∧ whoseTurn t = .engine ∧ SameElements s t := by
  induction hn : s.slack generalizing s with
  | zero =>
    exact ⟨0, s, le_rfl, rfl, whoseTurn_of_engine (head?_ne_of_notMem hreset) hb (.inr (.inr hn)), rfl⟩
  | succ n ih =>
    by_cases hturn : s.pending = [] ∨ s.holding = true
    · exact ⟨0, s, Nat.zero_le _, rfl,
        whoseTurn_of_engine (head?_ne_of_notMem hreset) hb (hturn.imp_right .inl), rfl⟩
    · obtain ⟨hpending, hfree⟩ := not_or.mp hturn
      obtain ⟨r, rest, hr⟩ := List.exists_cons_of_ne_nil hpending
      obtain ⟨i, hi⟩ := hfetch r (hr ▸ List.mem_cons_self)
      obtain ⟨t, ht, hsame, hslack, hlevels, hmem⟩ := step_host_busy hb (head?_ne_of_notMem hreset) hr hi
        (Bool.eq_false_iff.mpr hfree) (by omega)
      have hbt : t.busy = true := (congrArg State.busy hsame).trans hb
      obtain ⟨k, u, hk, hu, hw, hsame'⟩ := ih hbt (hlevels ▸ mt List.mem_of_mem_tail hreset)
        (fun x hx => hfetch x (hmem x hx)) (by omega)
      refine ⟨k + 1, u, by omega, ?_, hw, hsame.trans hsame'⟩
      simp only [runSteps, ht, hu]

/-- On the engine's turn its micro-step has a next state, and the step is that micro-step and the draw of
a free value. -/
theorem RoundsLeft.exists_step_engine {s : State} (hrounds : RoundsLeft s) (hw : whoseTurn s = .engine) :
    ∃ u, microStep s.passReset = .next u ∧ step s = .next u.drawSlack := by
  have hpassed : RoundsLeft s.passReset := hrounds
  obtain ⟨u, hu⟩ := hpassed.exists_microStep
  exact ⟨u, hu, (step_engine hw).trans (engineTurn_of_next hu)⟩

/-- Settles O11: the host turns that pass change no element, so the micro-step that comes then is that of
the state before them. -/
theorem engineTurnComes : Obligations.EngineTurnComes := by
  unfold Obligations.EngineTurnComes
  intro s hinv hb hreset hfetch
  obtain ⟨k, t, hk, ht, hw, hsame⟩ := exists_engine_turn hb hreset hfetch
  have hrounds : RoundsLeft t := by
    rw [hsame]
    exact hinv.roundsLeft hb
  obtain ⟨u, hu, hstep⟩ := hrounds.exists_step_engine hw
  exact ⟨k, t, u, hk, ht, hw, hsame, hu, hstep⟩

/-! ### A transaction waits for the job to end (R113) -/

/-- What is as before while an access waits: nothing completes, nothing is returned, no error is raised,
and the message that the engine works for stays underway. -/
structure Waits (s t : State) : Prop where
  pending : t.pending = s.pending
  returned : t.returned = s.returned
  seqerr : t.seqerr = s.seqerr
  cmderr : t.cmderr = s.cmderr
  noReset : true ∉ s.resetIn → true ∉ t.resetIn
  underway : ∀ m final, Underway s m final → Underway t m final

theorem Waits.refl (s : State) : Waits s s := ⟨rfl, rfl, rfl, rfl, id, fun _ _ => id⟩

theorem Waits.trans {s t u : State} (hst : Waits s t) (htu : Waits t u) : Waits s u where
  pending := htu.pending.trans hst.pending
  returned := htu.returned.trans hst.returned
  seqerr := htu.seqerr.trans hst.seqerr
  cmderr := htu.cmderr.trans hst.cmderr
  noReset h := htu.noReset (hst.noReset h)
  underway m final h := htu.underway m final (hst.underway m final h)

theorem digested_messagePart {s : State} {m : List Byte} : Digested s.messagePart m ↔ Digested s m :=
  ⟨fun h => ⟨h.phase, h.idle, h.chain, h.dgst, h.hex⟩, fun h => ⟨h.phase, h.idle, h.chain, h.dgst, h.hex⟩⟩

theorem underway_messagePart {s : State} {m : List Byte} {final : Bool} :
    Underway s.messagePart m final ↔ Underway s m final := by
  constructor <;> intro h <;> cases h with
  | working hw hj => exact .working (by simpa only [working_messagePart] using hw) hj
  | absorbing ha hfinal => exact .absorbing (by simpa only [absorbing_messagePart] using ha) hfinal
  | digested hd hfinal => exact .digested (by simpa only [digested_messagePart] using hd) hfinal

/-- A state with the same elements has the same message underway. -/
theorem Underway.congr {s t : State} {m : List Byte} {final : Bool} (h : Underway s m final)
    (hpart : t.messagePart = s.messagePart) : Underway t m final :=
  underway_messagePart.mp (hpart ▸ underway_messagePart.mpr h)

/-- The steps until a waiting access is performed: the micro-steps left, and one in which it is
presented. -/
def stepsLeft (s : State) : Nat := remaining s + if s.holding then 0 else 1

/-- The engine's step while an access waits. -/
theorem waits_engine {s : State} (hb : s.busy = true) (hrounds : RoundsLeft s)
    (hw : whoseTurn s = .engine) :
    ∃ t, step s = .next t ∧ Waits s t ∧ stepsLeft t + 1 = stepsLeft s ∧ t.holding = s.holding := by
  obtain ⟨u, hu, hstep⟩ := hrounds.exists_step_engine hw
  obtain ⟨hpending, hholding, hreturned, hresetIn, -, -, -, hseqerr, -, hcmderr⟩ := microStep_leaves hu
  have hleft : remaining u.drawSlack + 1 = remaining s := (microStep_advances hu).remaining_succ hb
  refine ⟨u.drawSlack, hstep, ⟨hpending, hreturned, hseqerr, hcmderr, fun h => ?_, fun m final h => ?_⟩,
    ?_, hholding⟩
  · exact hresetIn.symm ▸ mt List.mem_of_mem_tail h
  · have hpassed : Underway s.passReset m final := h.congr rfl
    exact (hpassed.of_microStep hb hu).congr rfl
  · have hholding' : u.drawSlack.holding = s.holding := hholding
    simp only [stepsLeft, hholding']
    omega

/-- The host's step in which an access that has to wait is presented. -/
theorem waits_host {s : State} {r : Request} {rest : List Request} {i : Instr} (hb : s.busy = true)
    (hreset : s.resetIn.head? ≠ some true) (hpending : s.pending = r :: rest) (hf : fetch r = .ok i)
    (hi : i ≠ .rdStatus) (hfree : s.holding = false) (hslack : s.slack ≠ 0) :
    ∃ t, step s = .next t ∧ Waits s t ∧ stepsLeft t + 1 = stepsLeft s ∧ t.holding = true := by
  have hstep := (step_of_host hreset hpending hf (.inr ⟨hfree, hslack⟩)).trans (exec_busy hb hi)
  refine ⟨_, hstep,
    ⟨rfl, rfl, rfl, rfl, mt List.mem_of_mem_tail, fun m final h => h.congr rfl⟩, ?_, rfl⟩
  simp only [stepsLeft, hfree]
  rfl

/-- An access that holds, or has to, is next in line until the job has ended, by induction on the steps
left. -/
theorem exists_end_of_wait {s : State} {r : Request} {rest : List Request} (hinv : Invariant s)
    (hreset : true ∉ s.resetIn) (hpending : s.pending = r :: rest)
    (hwait : s.holding = true ∨ ∃ i, fetch r = .ok i ∧ i ≠ .rdStatus) :
    ∃ k t, k ≤ stepsLeft s ∧ runSteps k s = .next t ∧ t.busy = false ∧ Invariant t ∧ Waits s t := by
  induction hn : stepsLeft s generalizing s with
  | zero =>
    cases hb : s.busy with
    | false => exact ⟨0, s, le_rfl, rfl, hb, hinv, .refl s⟩
    | true =>
      have := (hinv.roundsLeft hb).remaining_pos hb
      unfold stepsLeft at hn
      omega
  | succ n ih =>
    cases hb : s.busy with
    | false => exact ⟨0, s, Nat.zero_le _, rfl, hb, hinv, .refl s⟩
    | true =>
      have hlevel := head?_ne_of_notMem hreset
      obtain ⟨t, ht, hwaits, hleft, hwait'⟩ : ∃ t, step s = .next t ∧ Waits s t ∧
          stepsLeft t + 1 = stepsLeft s ∧ (t.holding = true ∨ ∃ i, fetch r = .ok i ∧ i ≠ .rdStatus) := by
        by_cases hturn : s.holding = true ∨ s.slack = 0
        · obtain ⟨t, ht, hwaits, hleft, hholding⟩ := waits_engine hb (hinv.roundsLeft hb)
            (whoseTurn_of_engine hlevel hb (.inr hturn))
          exact ⟨t, ht, hwaits, hleft, hholding ▸ hwait⟩
        · obtain ⟨hfree, hslack⟩ := not_or.mp hturn
          obtain ⟨i, hf, hi⟩ := hwait.resolve_left hfree
          obtain ⟨t, ht, hwaits, hleft, hholding⟩ := waits_host hb hlevel hpending hf hi
            (Bool.eq_false_iff.mpr hfree) hslack
          exact ⟨t, ht, hwaits, hleft, .inl hholding⟩
      obtain ⟨k, u, hk, hu, hfree, hinvu, hwaitsu⟩ := ih (step_invariant hinv ht) (hwaits.noReset hreset)
        (hwaits.pending.trans hpending) hwait' (by omega)
      refine ⟨k + 1, u, by omega, ?_, hfree, hinvu, hwaits.trans hwaitsu⟩
      simp only [runSteps, ht, hu]

/-- Settles O12: an access that holds waits for the micro-steps left, and no longer. -/
theorem heldTransactionCompletes : Obligations.HeldTransactionCompletes := by
  unfold Obligations.HeldTransactionCompletes
  intro s r rest i hinv hb hhold hpending hf hreset
  obtain ⟨k, t, hk, ht, hfree, -, hwaits⟩ := exists_end_of_wait hinv hreset hpending (.inl hhold)
  have hleft := remaining_le s
  rw [stepsLeft, hhold, if_pos rfl] at hk
  exact ⟨k, t, by omega, ht, hfree, hwaits.pending, hwaits.returned,
    step_of_free hfree (head?_ne_of_notMem (hwaits.noReset hreset)) (hwaits.pending.trans hpending) hf⟩

end Sys2Proof.Machine
end

section
/-! # The transaction sequence of `digestHex(M)` (43_host_interface.md section 5) -/

namespace Sys2Proof.Machine

/-! ### Runs -/

/-- Some number of steps leads from `s` to `t`. -/
def Reaches (s t : State) : Prop := ∃ k, runSteps k s = .next t

theorem Reaches.refl (s : State) : Reaches s s := ⟨0, rfl⟩

theorem Reaches.trans {s t u : State} (hst : Reaches s t) (htu : Reaches t u) : Reaches s u := by
  obtain ⟨k, ht⟩ := hst
  obtain ⟨l, hu⟩ := htu
  exact ⟨k + l, (runSteps_add l ht).trans hu⟩

theorem reaches_of_step {s t : State} (h : step s = .next t) : Reaches s t := by
  refine ⟨1, ?_⟩
  simp only [runSteps, h]

/-! ### The next access of the sequence -/

/-- A state of the invariant without reset, whose host has these accesses to make. -/
structure Presents (s : State) (accesses : List Request) : Prop where
  invariant : Invariant s
  noReset : true ∉ s.resetIn
  pending : s.pending = accesses

/-- No transaction touches the reset input. -/
theorem Performs.resetIn_kept {s t : State} {i : Instr} (h : Performs s i t) : t.resetIn = s.resetIn := by
  cases h with
  | finalOneBlock | finalTwoBlocks => simp
  | _ => rfl

/-- Between jobs every transaction completes. -/
theorem Performs.pending_of_free {s t : State} {i : Instr} (h : Performs s i t) (hb : s.busy = false) :
    t.pending = s.pending.tail := by
  cases h with
  | held hbusy => exact nomatch hb.symm.trans hbusy
  | finalOneBlock | finalTwoBlocks => simp
  | _ => rfl

theorem waits_passReset (s : State) : Waits s s.passReset where
  pending := rfl
  returned := rfl
  seqerr := rfl
  cmderr := rfl
  noReset := mt List.mem_of_mem_tail
  underway _ _ h := h.congr rfl

/-- The next access, if it is no STATUS read, waits for the job that runs, if one does, and is performed
then. -/
theorem Presents.next {s : State} {r : Request} {rest : List Request} {i : Instr}
    (h : Presents s (r :: rest)) (hf : fetch r = .ok i) (hi : i ≠ .rdStatus) :
    ∃ t u, Waits s t ∧ t.busy = false ∧ exec i t = .next u ∧ Reaches s u ∧ Presents u rest := by
  obtain ⟨k, t, -, ht, hfree, hinv, hwaits⟩ :=
    exists_end_of_wait h.invariant h.noReset h.pending (.inr ⟨i, hf, hi⟩)
  have hpending : t.pending = r :: rest := hwaits.pending.trans h.pending
  have hstep := step_of_free hfree (head?_ne_of_notMem (hwaits.noReset h.noReset)) hpending hf
  have hinv' : Invariant t.passReset := hinv
  have hwaits' : Waits s t.passReset := hwaits.trans (waits_passReset t)
  obtain ⟨u, hu⟩ := exists_exec (s := t.passReset) hinv.left i
  have hperf := exec_performs hu
  exact ⟨t.passReset, u, hwaits', hfree, hu, .trans ⟨k, ht⟩ (reaches_of_step (hstep.trans hu)),
    hperf.invariant hinv', hperf.resetIn_kept ▸ hwaits'.noReset h.noReset,
    (hperf.pending_of_free hfree).trans (congrArg List.tail hpending)⟩

/-! ### What each transaction of the sequence adds -/

/-- How far the sequence has come: the message `m` is underway, these bytes have been returned, and no
error has been raised since INIT. -/
structure Progress (s : State) (m : List Byte) (final : Bool) (returned : List Byte) : Prop where
  underway : Underway s m final
  returned : s.returned = returned
  seqerr : s.seqerr = false
  cmderr : s.cmderr = false

theorem Waits.progress {s t : State} {m out : List Byte} {final : Bool} (h : Waits s t)
    (hs : Progress s m final out) : Progress t m final out :=
  ⟨h.underway m final hs.underway, h.returned.trans hs.returned, h.seqerr.trans hs.seqerr,
    h.cmderr.trans hs.cmderr⟩

/-- INIT opens the empty message and clears the flags. -/
theorem progress_init {s t : State} (hb : s.busy = false) (h : exec .init s = .next t) :
    Progress t [] false s.returned := by
  obtain rfl := Host.Outcome.next.inj ((exec_init hb).symm.trans h)
  exact ⟨.absorbing (absorbing_openMessage hb) rfl, rfl, rfl, rfl⟩

/-- ABSORB adds a byte to a message that is not the longest. -/
theorem Progress.absorb {s t : State} {m out : List Byte} {d : Byte} (hs : Progress s m false out)
    (hb : s.busy = false) (hlength : m.length < maxBytes) (h : exec (.absorb d) s = .next t) :
    Progress t (m ++ [d]) false out := by
  obtain ⟨hunderway, hreturned, hseqerr, hcmderr⟩ := hs
  have ha : Absorbing s m := hunderway.absorbing_of_free hb
  cases exec_performs h with
  | held hbusy => exact nomatch hb.symm.trans hbusy
  | absorbSequence _ hphase => exact absurd ha.phase hphase
  | absorbOverflow _ _ hlen => exact absurd (ha.len_eq_maxLen_iff.mp hlen) hlength.ne
  | absorbMore _ _ hne hlt h127 => exact ⟨.absorbing (ha.store hne hlt h127) rfl, hreturned, hseqerr, hcmderr⟩
  | absorbFull _ _ hne hlt h127 =>
    exact ⟨.working (ha.store_full hne hlt h127) (iff_of_true rfl rfl), hreturned, hseqerr, hcmderr⟩

/-- FINAL starts the job that digests the message. -/
theorem Progress.final {s t : State} {m out : List Byte} (hs : Progress s m false out)
    (hb : s.busy = false) (h : exec .final s = .next t) : Progress t m true out := by
  obtain ⟨hunderway, hreturned, hseqerr, hcmderr⟩ := hs
  have ha : Absorbing s m := hunderway.absorbing_of_free hb
  cases exec_performs h with
  | held hbusy => exact nomatch hb.symm.trans hbusy
  | finalSequence _ hphase => exact absurd ha.phase hphase
  | finalOneBlock _ _ hle =>
    exact ⟨.working (ha.final_oneBlock hle) (iff_of_false nofun nofun), by simpa using hreturned,
      by simpa using hseqerr, by simpa using hcmderr⟩
  | finalTwoBlocks _ _ hge =>
    exact ⟨.working (ha.final_twoBlocks hge) (iff_of_false nofun nofun), by simpa using hreturned,
      by simpa using hseqerr, by simpa using hcmderr⟩

/-- A read of HEX, once the message is digested, returns a character of its hex string. -/
theorem Progress.read {s t : State} {m out : List Byte} {j : BitVec 7} (hs : Progress s m true out)
    (hb : s.busy = false) (h : exec (.rdHex j) s = .next t) :
    Progress t m true (out ++ [(digestHex m)[j.toNat]'j.isLt]) ∧ t.busy = false := by
  obtain ⟨hunderway, hreturned, hseqerr, hcmderr⟩ := hs
  obtain rfl := Host.Outcome.next.inj ((exec_rdHex hb).symm.trans h)
  have hhex : s.hex = digestHex m := (hunderway.digested_of_free hb).hex
  refine ⟨⟨hunderway.congr rfl, ?_, hseqerr, hcmderr⟩, hb⟩
  rw [State.respond_returned, hreturned, readHex]
  simp only [hhex]

/-! ### The parts of the sequence -/

/-- One ABSORB a byte, by induction on the bytes. -/
theorem absorb_bytes {s : State} {m out : List Byte} (ds : List Byte) {rest : List Request}
    (h : Presents s (ds.map (.wr 0x02) ++ rest)) (hs : Progress s m false out)
    (hlength : (m ++ ds).length ≤ maxBytes) :
    ∃ t, Reaches s t ∧ Presents t rest ∧ Progress t (m ++ ds) false out := by
  induction ds generalizing s m with
  | nil => exact ⟨s, .refl s, h, (List.append_nil m).symm ▸ hs⟩
  | cons d ds ih =>
    have hlt : m.length < maxBytes := by
      rw [List.length_append, List.length_cons] at hlength
      omega
    obtain ⟨t, u, hwaits, hfree, hu, hreach, hpresents⟩ := h.next (fetch_wr 0x02 d) nofun
    rw [List.append_cons] at hlength ⊢
    obtain ⟨v, hreach', hpresents', hprogress⟩ :=
      ih hpresents ((hwaits.progress hs).absorb hfree hlt hu) hlength
    exact ⟨v, hreach.trans hreach', hpresents', hprogress⟩

/-- The read of hex character j as the sequence writes it. -/
theorem fetch_rd_hexOffset {j : Nat} (hj : j < 128) :
    fetch (.rd (BitVec.ofNat 8 (0x80 + j))) = .ok (.rdHex (BitVec.ofNat 7 j)) := by
  rw [fetch_rd, decodeRead_hex (j := BitVec.ofNat 7 j)]
  simp only [BitVec.toNat_ofNat]
  omega

/-- Character j of the hex string. -/
def hexCharacter (m : List Byte) (j : Nat) : Byte := (digestHex m).toList.getD j 0x00

/-- One read a character, by induction on the characters; when the last is returned no job runs. -/
theorem read_characters {s : State} {m out : List Byte} (js : List Nat) (hjs : ∀ j ∈ js, j < 128)
    (h : Presents s (js.map fun j => .rd (BitVec.ofNat 8 (0x80 + j)))) (hs : Progress s m true out)
    (hb : js ≠ [] ∨ s.busy = false) :
    ∃ t, Reaches s t ∧ Presents t [] ∧ t.busy = false ∧
      Progress t m true (out ++ js.map (hexCharacter m)) := by
  induction js generalizing s out with
  | nil => exact ⟨s, .refl s, h, hb.resolve_left (absurd rfl), (List.append_nil out).symm ▸ hs⟩
  | cons j js ih =>
    have hj : j < 128 := hjs j List.mem_cons_self
    obtain ⟨t, u, hwaits, hfree, hu, hreach, hpresents⟩ := h.next (fetch_rd_hexOffset hj) nofun
    obtain ⟨hprogress, hfree'⟩ := (hwaits.progress hs).read hfree hu
    obtain ⟨v, hreach', hpresents', hfreev, hprogress'⟩ :=
      ih (fun i hi => hjs i (List.mem_cons_of_mem j hi)) hpresents hprogress (.inr hfree')
    refine ⟨v, hreach.trans hreach', hpresents', hfreev, ?_⟩
    have hcharacter : hexCharacter m j = (digestHex m)[(BitVec.ofNat 7 j).toNat]'(BitVec.isLt _) := by
      simp [hexCharacter, Nat.mod_eq_of_lt hj, hj]
    rw [List.map_cons, hcharacter, List.append_cons]
    exact hprogress'

/-- The characters in order are the hex string. -/
theorem map_hexCharacter_range (m : List Byte) :
    (List.range 128).map (hexCharacter m) = (digestHex m).toList := by
  apply List.ext_getElem
  · simp
  · intro j hj _
    have hlt : j < 128 := by simpa using hj
    simp [hexCharacter, hlt]

theorem digestHexRequests_eq (m : List Byte) :
    digestHexRequests m = .wr 0x00 0x01 :: (m.map (.wr 0x02) ++
      (.wr 0x00 0x02 :: (List.range 128).map fun j => .rd (BitVec.ofNat 8 (0x80 + j)))) := by
  simp [digestHexRequests, Pseudo.expand]

/-- STATUS when a message is digested and no error was raised (R20). -/
theorem statusByte_of_done {s : State} (hinv : Invariant s) (hphase : s.phase = .done)
    (hb : s.busy = false) (hseqerr : s.seqerr = false) (hcmderr : s.cmderr = false) :
    statusByte s = 0x04 := by
  obtain ⟨-, -, hov, -, -, -⟩ := hinv
  have hlenovf : s.lenovf = false :=
    Bool.eq_false_iff.mpr fun h => nomatch hphase.symm.trans (hov.mp h)
  rw [statusByte, hcmderr, hseqerr, hlenovf, hphase, hb]
  rfl

/-- Settles O51: INIT, the bytes, FINAL and the characters, one part after the other. -/
theorem digestHexSequence : Obligations.DigestHexSequence := by
  unfold Obligations.DigestHexSequence
  intro s m hinv hlength hb hreset hpending
  have hstart : Presents s (digestHexRequests m) := ⟨hinv, hreset, hpending⟩
  rw [digestHexRequests_eq] at hstart
  obtain ⟨t₁, u₁, hwaits₁, hfree₁, hu₁, hreach₁, hpresents₁⟩ :=
    hstart.next (i := .init) (fetch_wr 0x00 0x01) nofun
  have hopened : Progress u₁ [] false s.returned := hwaits₁.returned ▸ progress_init hfree₁ hu₁
  obtain ⟨u₂, hreach₂, hpresents₂, habsorbed⟩ := absorb_bytes m hpresents₁ hopened hlength
  obtain ⟨t₃, u₃, hwaits₃, hfree₃, hu₃, hreach₃, hpresents₃⟩ :=
    hpresents₂.next (i := .final) (fetch_wr 0x00 0x02) nofun
  have hfinal : Progress u₃ m true s.returned := (hwaits₃.progress habsorbed).final hfree₃ hu₃
  obtain ⟨u₄, hreach₄, hpresents₄, hfree₄, hread⟩ :=
    read_characters (List.range 128) (fun j => List.mem_range.mp) hpresents₃ hfinal (.inl (by simp))
  obtain ⟨k, hk⟩ := ((hreach₁.trans hreach₂).trans hreach₃).trans hreach₄
  have hd : Digested u₄ m := hread.underway.digested_of_free hfree₄
  exact ⟨k, u₄, hk, hpresents₄.pending, hfree₄,
    statusByte_of_done hpresents₄.invariant hd.phase hfree₄ hread.seqerr hread.cmderr, hd.dgst,
    map_hexCharacter_range m ▸ hread.returned⟩

end Sys2Proof.Machine
end

section
/-! # Nothing from before an INIT can be seen after it (43_host_interface.md section 1) -/

namespace Sys2Proof.Machine

/-! ### What INIT leaves of the past -/

/-- `s` with the working variables, the window and the round counter of `e`, which `LOAD` overwrites
(R71). -/
def State.withScratch (s e : State) : State := { s with wk := e.wk, w := e.w, t := e.t }

/-- `s` with everything of `e` that the start of a job overwrites too: the sequencer's elements and the
model's slack. -/
def State.withIdleEngine (s e : State) : State :=
  { s.withScratch e with mstep := e.mstep, job := e.job, slack := e.slack }

/-- `Alike s t`: state `t` differs from `s` at most in elements that are written before they are read. -/
inductive Alike (s : State) : State → Prop
  | same : Alike s s
  | idle (e : State) : s.busy = false → Alike s (s.withIdleEngine e)
  | start (e : State) : s.busy = true → s.mstep = .load → Alike s (s.withScratch e)

/-- The observation of R95 does not tell them apart. -/
theorem Alike.observation {s t : State} (h : Alike s t) :
    t.returned = s.returned ∧ statusByte t = statusByte s ∧ t.dgst = s.dgst ∧ t.hex = s.hex := by
  cases h <;> exact ⟨rfl, rfl, rfl, rfl⟩

/-! ### The transactions -/

/-- Whatever is on the list, `exec` answers. -/
theorem Performs.exec_eq {s t : State} {i : Instr} (h : Performs s i t) : exec i s = .next t := by
  cases h with
  | held hb hi => exact exec_busy hb hi
  | status => rfl
  | nop hb => exact exec_nop hb
  | wrRo hb => exact exec_wrRo hb
  | wrRsvd hb => exact exec_wrRsvd hb
  | init hb => exact exec_init hb
  | cmdRsvd hb => exact exec_cmdRsvd hb
  | finalSequence hb hphase => exact exec_final_of_phase hb hphase
  | finalOneBlock hb hphase hle => exact exec_final_oneBlock hb hphase hle
  | finalTwoBlocks hb hphase hge h127 => exact exec_final_twoBlocks hb hphase hge h127
  | absorbSequence hb hphase => exact exec_absorb_of_phase hb hphase
  | absorbOverflow hb hphase hlen => exact exec_absorb_overflow hb hphase hlen
  | absorbMore hb hphase hne hp h127 => exact exec_absorb_stored hb hphase hne hp h127
  | absorbFull hb hphase hne hp h127 => exact exec_absorb_full hb hphase hne hp (by omega)
  | rdDgst hb => exact exec_rdDgst hb
  | rdHex hb => exact exec_rdHex hb
  | rdZero hb => exact exec_rdZero hb

/-- A job that starts overwrites all that the idle engine held but what `LOAD` overwrites. -/
theorem alike_startJob (s e : State) (b : Block) (j : Job) :
    Alike ({ s with buf := b }.startJob j) ({ s.withIdleEngine e with buf := b }.startJob j) :=
  .start e rfl rfl

/-- Between jobs a transaction does not read what the idle engine holds. -/
theorem Performs.withIdleEngine {s t : State} {i : Instr} (h : Performs s i t) (hb : s.busy = false)
    (e : State) : ∃ t', Performs (s.withIdleEngine e) i t' ∧ Alike t t' := by
  cases h with
  | held hbusy => exact nomatch hb.symm.trans hbusy
  | status => exact ⟨_, .status, .idle e hb⟩
  | nop => exact ⟨_, .nop hb, .idle e hb⟩
  | wrRo => exact ⟨_, .wrRo hb, .idle e hb⟩
  | wrRsvd => exact ⟨_, .wrRsvd hb, .idle e hb⟩
  | init => exact ⟨_, .init hb, .idle e hb⟩
  | cmdRsvd => exact ⟨_, .cmdRsvd hb, .idle e hb⟩
  | finalSequence _ hphase => exact ⟨_, .finalSequence hb hphase, .idle e hb⟩
  | finalOneBlock _ hphase hle => exact ⟨_, .finalOneBlock hb hphase hle, alike_startJob s.retire e _ _⟩
  | finalTwoBlocks _ hphase hge h127 =>
    exact ⟨_, .finalTwoBlocks hb hphase hge h127, alike_startJob s.retire e _ _⟩
  | absorbSequence _ hphase => exact ⟨_, .absorbSequence hb hphase, .idle e hb⟩
  | absorbOverflow _ hphase hlen => exact ⟨_, .absorbOverflow hb hphase hlen, .idle e hb⟩
  | absorbMore _ hphase hne hp h127 =>
    exact ⟨_, .absorbMore (s := s.withIdleEngine e) hb hphase hne hp h127, .idle e hb⟩
  | absorbFull _ hphase hne hp h127 =>
    exact ⟨_, .absorbFull (s := s.withIdleEngine e) hb hphase hne hp h127, .start e rfl rfl⟩
  | rdDgst => exact ⟨_, .rdDgst hb, .idle e hb⟩
  | rdHex => exact ⟨_, .rdHex hb, .idle e hb⟩
  | rdZero => exact ⟨_, .rdZero hb, .idle e hb⟩

/-- While a job runs a transaction leaves the engine alone. -/
theorem Performs.withScratch {s t : State} {i : Instr} (h : Performs s i t) (hb : s.busy = true)
    (hm : s.mstep = .load) (e : State) : ∃ t', Performs (s.withScratch e) i t' ∧ Alike t t' := by
  cases h with
  | held _ hi => exact ⟨_, .held hb hi, .start e hb hm⟩
  | status => exact ⟨_, .status, .start e hb hm⟩
  | _ => exact nomatch hb.symm.trans ‹s.busy = false›

/-! ### The steps -/

/-- Between jobs the slack has no part in whose turn it is. -/
theorem whoseTurn_withIdleEngine {s : State} (hb : s.busy = false) (e : State) :
    whoseTurn (s.withIdleEngine e) = whoseTurn s := by
  unfold whoseTurn State.withIdleEngine State.withScratch
  simp only [hb, Bool.false_and]

/-- A step between jobs does not read what the idle engine holds. -/
theorem step_withIdleEngine {s t : State} (hb : s.busy = false) (e : State) (h : step s = .next t) :
    ∃ t', step (s.withIdleEngine e) = .next t' ∧ Alike t t' := by
  have hturn := whoseTurn_withIdleEngine hb e
  rcases step_cases h with ⟨hw, rfl⟩ | ⟨-, hbusy, -⟩ | ⟨hw, rfl⟩ | ⟨r, rest, i, hw, -, hf, he⟩
  · exact ⟨_, step_reset (whoseTurn_reset.mp (hturn.trans hw)), .same⟩
  · exact nomatch hb.symm.trans hbusy
  · exact ⟨_, step_idle (hturn.trans hw), .idle e hb⟩
  · rw [useTurn_free (s := s.passReset) hb] at he
    obtain ⟨t', hperf, halike⟩ := (exec_performs he).withIdleEngine hb e
    refine ⟨t', ?_, halike⟩
    rw [step_host (hturn.trans hw) hf, useTurn_free (s := (s.withIdleEngine e).passReset) hb]
    exact hperf.exec_eq

/-- A step at the start of a job does not read what `LOAD` overwrites, and `LOAD` overwrites it. -/
theorem step_withScratch {s t : State} (hb : s.busy = true) (hm : s.mstep = .load) (e : State)
    (h : step s = .next t) : ∃ t', step (s.withScratch e) = .next t' ∧ Alike t t' := by
  rcases step_cases h with ⟨hw, rfl⟩ | ⟨hw, -, u, hu, rfl⟩ | ⟨hw, rfl⟩ | ⟨r, rest, i, hw, -, hf, he⟩
  · exact ⟨_, step_reset (s := s.withScratch e) (whoseTurn_reset.mp hw), .same⟩
  · obtain rfl := Host.Outcome.next.inj ((microStep_load (s := s.passReset) hm).symm.trans hu)
    refine ⟨_, ?_, .same⟩
    rw [step_engine (s := s.withScratch e) hw]
    exact engineTurn_of_next (microStep_load (s := (s.withScratch e).passReset) hm)
  · exact ⟨_, step_idle (s := s.withScratch e) hw, .start e hb hm⟩
  · rw [useTurn_passReset] at he
    obtain ⟨t', hperf, halike⟩ := (exec_performs he).withScratch hb hm e
    refine ⟨t', ?_, halike⟩
    rw [step_host (s := s.withScratch e) hw hf, useTurn_passReset]
    exact hperf.exec_eq

/-- Alike states take alike steps. -/
theorem Alike.exists_step {s s' t : State} (halike : Alike s s') (h : step s = .next t) :
    ∃ t', step s' = .next t' ∧ Alike t t' := by
  cases halike with
  | same => exact ⟨t, h, .same⟩
  | idle e hb => exact step_withIdleEngine hb e h
  | start e hb hm => exact step_withScratch hb hm e h

/-- Alike states have alike runs, by induction on the steps. -/
theorem Alike.exists_run {s s' t : State} {k : Nat} (halike : Alike s s') (h : runSteps k s = .next t) :
    ∃ t', runSteps k s' = .next t' ∧ Alike t t' := by
  induction k generalizing s s' with
  | zero =>
    cases h
    exact ⟨s', rfl, halike⟩
  | succ k ih =>
    simp only [runSteps] at h ⊢
    split at h
    · next u hu =>
      obtain ⟨u', hu', halike'⟩ := halike.exists_step hu
      rw [hu']
      exact ih halike' h
    · cases h
    · cases h

/-! ### INIT -/

/-- What the host, the reset input and the schedule bring along: two states in which the same is to
come. -/
structure SameHost (s t : State) : Prop where
  pending : t.pending = s.pending
  holding : t.holding = s.holding
  returned : t.returned = s.returned
  resetIn : t.resetIn = s.resetIn
  tick : t.tick = s.tick

/-- A reset leaves nothing else. -/
theorem SameHost.applyReset_eq {s t : State} (h : SameHost s t) : t.applyReset = s.applyReset := by
  simp only [State.applyReset, h.pending, h.holding, h.returned, h.resetIn, h.tick]

/-- INIT leaves nothing else but what the idle engine holds. -/
theorem SameHost.init_eq {s t : State} (h : SameHost s t) (hs : s.busy = false) (ht : t.busy = false) :
    t.passReset.openMessage.retire = s.passReset.openMessage.retire.withIdleEngine t := by
  simp only [State.passReset, State.openMessage, State.clearErrors, State.retire, State.withIdleEngine,
    State.withScratch, h.pending, h.returned, h.resetIn, h.tick, hs, ht]

/-- The first step: a reset, or INIT. -/
theorem SameHost.step_init {s t u : State} {rest : List Request} (h : SameHost s t)
    (hs : s.busy = false) (ht : t.busy = false) (hpending : s.pending = .wr 0x00 0x01 :: rest)
    (hu : step s = .next u) : ∃ v, step t = .next v ∧ Alike u v := by
  by_cases hreset : s.resetIn.head? = some true
  · obtain rfl := Host.Outcome.next.inj ((step_reset hreset).symm.trans hu)
    exact ⟨_, step_reset (h.resetIn ▸ hreset), h.applyReset_eq.symm ▸ .same⟩
  · have hf : fetch (.wr 0x00 0x01) = .ok .init := fetch_wr 0x00 0x01
    have hinit := (step_of_free hs hreset hpending hf).trans (exec_init (s := s.passReset) hs)
    obtain rfl := Host.Outcome.next.inj (hinit.symm.trans hu)
    refine ⟨_, (step_of_free ht (h.resetIn ▸ hreset) (h.pending.trans hpending) hf).trans
      (exec_init (s := t.passReset) ht), ?_⟩
    rw [h.init_eq hs ht]
    exact .idle t hs

/-- Settles O53: after the first step, a reset or INIT, the two states are alike, and stay so. -/
theorem initIsolatesMessages : Obligations.InitIsolatesMessages := by
  unfold Obligations.InitIsolatesMessages
  intro s₁ s₂ rest k t₁ hb₁ hb₂ hinit hpending hholding hreturned hresetIn htick h
  have hsame : SameHost s₁ s₂ := ⟨hpending, hholding, hreturned, hresetIn, htick⟩
  simp only [runSteps] at h ⊢
  split at h
  · next u₁ hu₁ =>
    obtain ⟨u₂, hu₂, halike⟩ := hsame.step_init hb₁ hb₂ hinit hu₁
    obtain ⟨t₂, ht₂, halike'⟩ := halike.exists_run h
    rw [hu₂]
    exact ⟨t₂, ht₂, halike'.observation⟩
  · cases h
  · cases h

end Sys2Proof.Machine
end

section
/-! # The padded message (40_padding.md R57, R58) and the platform (20_memory.md R27, R29) -/

namespace Sys2Proof.Machine

/-! ### The padded message -/

/-- The terminator, the zeros and the length field fill the last block (R58). -/
theorem zeroCount_spec (n : Nat) : n + 1 + zeroCount n + 16 = 128 * blockCount n := by
  unfold zeroCount blockCount
  split <;> omega

/-- Fewer zeros do not fill it. -/
theorem zeroCount_le {n z : Nat} (h : (n + 1 + z + 16) % 128 = 0) : zeroCount n ≤ z := by
  unfold zeroCount
  omega

theorem length_padMessage (m : List Byte) : (padMessage m).length = 128 * blockCount m.length := by
  rw [← zeroCount_spec, padMessage, List.length_append, List.length_cons, List.length_append,
    List.length_replicate, length_be128]
  omega

/-- Settles O46: the length with the padding is that of the blocks of R57. -/
theorem paddingShape : Obligations.PaddingShape := by
  unfold Obligations.PaddingShape
  refine fun m => ⟨?_, ?_, fun z => zeroCount_le, length_padMessage m, ?_, rfl⟩
  · simp only [padMessage, List.append_assoc, List.cons_append, List.nil_append]
  · rw [zeroCount_spec, Nat.mul_mod_right]
  · unfold blockCount
    split <;> omega

/-! ### The units (60_exceptions.md R106) -/

/-- A step of a unit is its own step. -/
theorem stepUnit_of_step {units : List State} {i : Nat} {s t : State} (hi : units[i]? = some s)
    (h : step s = .next t) : stepUnit units i = .next (units.set i t) := by
  simp only [stepUnit, hi, h]

/-- A step of a unit writes that unit alone. -/
theorem stepUnit_next {units units' : List State} {i : Nat} (h : stepUnit units i = .next units') :
    ∃ t, units' = units.set i t := by
  unfold stepUnit at h
  split at h
  · cases h
  · split at h <;> cases h
    exact ⟨_, rfl⟩

/-- An access that is accepted writes the unit it is routed to alone. -/
theorem submit_next {p : Platform} {units units' : List State} {x : HostAccess} {i offset : Nat}
    (hroute : route p x.address = some (i, offset)) (h : submit p units x = .next units') :
    ∃ t, units' = units.set i t := by
  unfold submit at h
  rw [hroute] at h
  split at h
  · cases h
  · dsimp only at h
    split at h <;> cases h
    exact ⟨_, rfl⟩

/-- Settles O59: a step and an access set one entry of the list of units. -/
theorem instancesAreIndependent : Obligations.InstancesAreIndependent := by
  unfold Obligations.InstancesAreIndependent
  refine ⟨fun units units' i j hne h => ?_, fun units i s t => stepUnit_of_step,
    fun p units units' x i offset j hroute hne h => ?_⟩
  · obtain ⟨t, rfl⟩ := stepUnit_next h
    exact List.getElem?_set_ne hne
  · obtain ⟨t, rfl⟩ := submit_next hroute h
    exact List.getElem?_set_ne hne

/-! ### The windows (20_memory.md R27) -/

/-- On a well-formed platform the windows of an earlier and of a later unit do not overlap. -/
theorem bases_disjoint {p : Platform} (hwf : p.wf = true) {i j : Nat} (hij : j < i)
    (hi : i < p.bases.length) :
    p.bases[j] + 256 ≤ p.bases[i] ∨ p.bases[i] + 256 ≤ p.bases[j] := by
  rw [Platform.wf, Bool.and_eq_true, decide_eq_true_iff, decide_eq_true_iff] at hwf
  obtain ⟨-, hpairwise⟩ := hwf
  exact List.pairwise_iff_getElem.mp hpairwise j i (by omega) hi hij

/-- An address inside a unit's window is routed to it: no earlier window holds the address. -/
theorem route_of_window {p : Platform} {i base address : Nat} (hwf : p.wf = true)
    (hbase : p.bases[i]? = some base) (hlow : base ≤ address) (hhigh : address < base + 256) :
    route p address = some (i, address - base) := by
  obtain ⟨hi, rfl⟩ := List.getElem?_eq_some_iff.mp hbase
  have hfind : (p.bases.zipIdx.find? fun e => decide (e.1 ≤ address ∧ address < e.1 + 256)) =
      some (p.bases[i], i) := by
    refine List.find?_eq_some_iff_getElem.mpr
      ⟨decide_eq_true ⟨hlow, hhigh⟩, i, by simpa using hi, by simp, fun j hj => ?_⟩
    have hdisjoint := bases_disjoint hwf hj hi
    simp only [List.getElem_zipIdx, Bool.not_eq_true', decide_eq_false_iff_not]
    omega
  rw [route, hfind, Option.map_some]

/-- An address outside every window is routed nowhere. -/
theorem route_of_noWindow {p : Platform} {address : Nat}
    (h : ∀ base ∈ p.bases, address < base ∨ base + 256 ≤ address) : route p address = none := by
  rw [route, Option.map_eq_none_iff, List.find?_eq_none]
  intro e he
  have houtside := h e.1 (List.fst_mem_of_mem_zipIdx he)
  rw [decide_eq_true_iff]
  omega

/-- An access of another width is refused. -/
theorem submit_notOneByte {p : Platform} {units : List State} {x : HostAccess}
    (h : x.lanes.length ≠ 1) : submit p units x = .refused .notOneByte := by
  rw [submit, if_pos h]

/-- A one-byte access that is routed nowhere is refused. -/
theorem submit_outsideWindow {p : Platform} {units : List State} {x : HostAccess}
    (h : x.lanes.length = 1) (hroute : route p x.address = none) :
    submit p units x = .refused .outsideWindow := by
  rw [submit, if_neg (not_not.mpr h), hroute]

/-- A one-byte access that is routed to a unit is queued there. -/
theorem submit_routed {p : Platform} {units : List State} {x : HostAccess} {i offset : Nat} {s : State}
    (h : x.lanes.length = 1) (hroute : route p x.address = some (i, offset)) (hi : units[i]? = some s) :
    submit p units x =
      .next (units.set i { s with pending := s.pending ++ [⟨x.write, offset, x.lanes⟩] }) := by
  rw [submit, if_neg (not_not.mpr h), hroute]
  simp only [hi]

/-- Settles O60: by where the address is routed. -/
theorem accessesReachTheirWindow : Obligations.AccessesReachTheirWindow := by
  unfold Obligations.AccessesReachTheirWindow
  intro p units x hwf _
  refine ⟨fun i base s b hbase hlow hhigh hlanes hi => ?_, submit_notOneByte,
    fun h hout => submit_outsideWindow h (route_of_noWindow hout)⟩
  have hlength : x.lanes.length = 1 := congrArg List.length hlanes
  rw [submit_routed hlength (route_of_window hwf hbase hlow hhigh) hi, hlanes]

end Sys2Proof.Machine
end
